-- ==== Sys2Proof/Word.lean ====
section
/-! DEFINITION. The widths of the block's values (00_scope.md R6, R9): unsigned bit vectors, bit 0 the least significant. -/

namespace Sys2Proof

/-- One byte of a transfer: `DATA_WIDTH` is 8 (R6, R35). -/
abbrev Byte := BitVec 8

/-- A checksum: `CRC_WIDTH` is 16 (R6, R14). -/
abbrev Crc := BitVec 16

/-- A 32-bit register or field: the preamble, the declared length, the span counter (R13). -/
abbrev Word32 := BitVec 32

/-- One command word `cmd[11:0]`: `CMD_WIDTH` is 12 (R6, R49). -/
abbrev CmdWord := BitVec 12

end Sys2Proof
end

