-- ==== Sys2Proof/Syntax.lean ====
section
/-! DEFINITION. The six operations of the command port (30_encoding.md R50), one constructor per row of spec/opcode_table.json.
The ten reserved values of `op` are no operations (R53); what a reserved command word does is Machine/Nop.lean's `execReserved`. -/

namespace Sys2Proof

/-- An operation. Only the two operations of format C1 have an operand, the byte `data` (R51);
the ignored `data` bits of format C0 are no part of the operation (R52, log entry 10). -/
inductive Instr where
  /-- `NOP` (R88). -/
  | nop
  /-- `GINIT`: start a new byte range in unit G (R70). -/
  | ginit
  /-- `GBYTE d`: append one byte to unit G's range (R71). -/
  | gbyte (d : Byte)
  /-- `FARM`: arm unit F for a new frame (R74). -/
  | farm
  /-- `FBYTE d`: present the next byte of the stream to unit F (R75 to R80). -/
  | fbyte (d : Byte)
  /-- `FSPANEND`: the byte accepted last was the last of the span (R81, R82). -/
  | fspanend
  deriving DecidableEq, Repr

end Sys2Proof
end

