-- ==== Sys2Proof/WellFormed.lean ====
section
/-! DEFINITION. Well-formedness.
The one operand of an operation is a byte, and its type says so: no further check is left to an operation (R51).
The check that can fail is a command word's: its `op` must be one of the six assigned values (R50, R53). -/

namespace Sys2Proof

/-- An operation is well-formed: its operand, where it has one, is any 8-bit value (R51), which its type already says. -/
def Instr.wf : Instr → Bool
  | .nop => true
  | .ginit => true
  | .gbyte _ => true
  | .farm => true
  | .fbyte _ => true
  | .fspanend => true

/-- A command word is assigned: `op = cmd[11:8]` is in 0x0 .. 0x5; the values 0x6 .. 0xF are reserved (R50, R53). -/
def cmdAssigned (w : CmdWord) : Bool := w.extractLsb' 8 4 ≤ 5#4

end Sys2Proof
end

