-- ==== Sys2Proof/Decode.lean ====
section
/-! DEFINITION. The decoder of the command word (30_encoding.md R49 to R53), total on every 12-bit word, and after it the encoder. -/

namespace Sys2Proof

/-- Why a command word is no operation. -/
inductive DecodeReject where
  /-- `op` is in 0x6 .. 0xF (R53). -/
  | reservedOp (op : BitVec 4)
  deriving DecidableEq, Repr

/-- `op = cmd[11:8]` (R49). -/
def cmdOp (w : CmdWord) : BitVec 4 := w.extractLsb' 8 4

/-- `data = cmd[7:0]` (R49). -/
def cmdData (w : CmdWord) : Byte := w.extractLsb' 0 8

/-- The decoder of R50: `op` selects the row, every value above 5 is reserved.
Format C0 does not read `data` (R52); format C1 takes it as the byte (R51). -/
def decode (w : CmdWord) : Except DecodeReject Instr :=
  match (cmdOp w).toNat with
  | 0 => .ok .nop
  | 1 => .ok .ginit
  | 2 => .ok (.gbyte (cmdData w))
  | 3 => .ok .farm
  | 4 => .ok (.fbyte (cmdData w))
  | 5 => .ok .fspanend
  | _ => .error (.reservedOp (cmdOp w))

/-- The instruction the decoder reads from the table's number `w` of `nbits` bits.
A command word has 12 bits (R49), so a larger number is no command word (log entry 11). -/
def decodeTableWord (nbits w : Nat) : Option Instr :=
  if w % 2 ^ nbits < 2 ^ 12 then (decode (BitVec.ofNat 12 (w % 2 ^ nbits))).toOption else none

/-- The value of `op` of an operation (R50). -/
def opOf : Instr → BitVec 4
  | .nop => 0x0#4
  | .ginit => 0x1#4
  | .gbyte _ => 0x2#4
  | .farm => 0x3#4
  | .fbyte _ => 0x4#4
  | .fspanend => 0x5#4

/-- The `data` of an operation's canonical word: the byte in format C1, 0x00 in format C0 (R51, R52). -/
def dataOf : Instr → Byte
  | .nop => 0x00#8
  | .ginit => 0x00#8
  | .gbyte d => d
  | .farm => 0x00#8
  | .fbyte d => d
  | .fspanend => 0x00#8

/-- The encoder: the canonical command word `op` followed by `data` (R49, R52). -/
def encode (i : Instr) : CmdWord := opOf i ++ dataOf i

/-- A row of the operation map (R50): "`match`/`mask` for each row are `op << 8` and `0xF00`". -/
structure OpcodeRow where
  mask : CmdWord
  pattern : CmdWord
  deriving DecidableEq, Repr

/-- A command word is in a row of the map. -/
def rowHolds (r : OpcodeRow) (w : CmdWord) : Bool := w &&& r.mask = r.pattern

/-- The six rows of the operation map, in the table's order (R50, spec/opcode_table.json). -/
def opcodeRows : List OpcodeRow :=
  [⟨0xF00#12, 0x000#12⟩, ⟨0xF00#12, 0x100#12⟩, ⟨0xF00#12, 0x200#12⟩,
   ⟨0xF00#12, 0x300#12⟩, ⟨0xF00#12, 0x400#12⟩, ⟨0xF00#12, 0x500#12⟩]

/-- The row of an operation. -/
def rowOf : Instr → OpcodeRow
  | .nop => ⟨0xF00#12, 0x000#12⟩
  | .ginit => ⟨0xF00#12, 0x100#12⟩
  | .gbyte _ => ⟨0xF00#12, 0x200#12⟩
  | .farm => ⟨0xF00#12, 0x300#12⟩
  | .fbyte _ => ⟨0xF00#12, 0x400#12⟩
  | .fspanend => ⟨0xF00#12, 0x500#12⟩

end Sys2Proof
end

