-- ==== Sys2Proof/Config.lean ====
section
/-! DEFINITION. The parameters of 00_scope.md R6 that a definition of the model reads.
The widths of R6 are the types of Word.lean; the final XOR of R6 is "none", so nothing is applied at the end of a CRC.
The spec leaves no value of the block's behaviour open (R8), so there is no free value here.
Its one open parameter, PHY (92_eei_decisions.md O1), is read by no rule and is not modelled (log entry 9). -/

namespace Sys2Proof.Config

/-- `CRC_POLY_REFLECTED` (R6): the polynomial as a right-shifting register uses it (R60; PRESUMED by the spec, log entry 7). -/
def crcPoly : Crc := 0xA001#16

/-- `CRC_INIT` (R6): "initial 0x0000". -/
def crcInit : Crc := 0x0000#16

/-- The polynomial's normal form, which a left-shifting register uses (R60): used only in stating R60. -/
def crcPolyNormal : Crc := 0x8005#16

/-- `PREAMBLE_VALUE` (R6), the four bytes together: every byte 0x00. -/
def preambleValue : Word32 := 0x00000000#32

/-- The index of the last byte of a 4-byte field: `PREAMBLE_BYTES` and `LENGTH_BYTES` are 4 (R6, R16). -/
def lastFieldIdx : BitVec 2 := 3#2

/-- The largest value of the span counter, after which it wraps (R6 `CNT_WIDTH`, R78). -/
def cntMax : Word32 := 0xFFFFFFFF#32

end Sys2Proof.Config
end

