-- ==== Sys2Proof/Machine/Crc.lean ====
section
/-! DEFINITION. The CRC-16/ARC function of both units (40_crc_generator.md R59 to R66), and the three other forms the
spec gives of it: the parallel form (R64), the table form (R65), and the left-shifting reflected form (R60). -/

namespace Sys2Proof.Machine

/-- One turn of R62's loop: shift right; where the bit shifted out is 1, XOR with the polynomial.
Shift direction: PRESUMED by the spec (G1), log entry 7. -/
def crcBit (t : Crc) : Crc :=
  if t.getLsbD 0 then (t >>> 1) ^^^ Config.crcPoly else t >>> 1

/-- `n` turns of R62's loop. -/
def crcBits : Nat → Crc → Crc
  | 0, t => t
  | n + 1, t => crcBits n (crcBit t)

/-- `crc_update(c, b)` (R62): the byte enters the low byte, then eight turns. -/
def crcUpdate (c : Crc) (b : Byte) : Crc := crcBits 8 (c ^^^ b.setWidth 16)

/-- The left fold of `crc_update` from any start value, first byte first (R63, R69). -/
def crcFold (c : Crc) (bytes : List Byte) : Crc := bytes.foldl crcUpdate c

/-- `crc16(bytes)` (R63): the fold from the initial value, nothing applied at the end. -/
def crc16 (bytes : List Byte) : Crc := crcFold Config.crcInit bytes

/-- The parallel form of `crc_update` (R64), its sixteen equations. -/
def crcParallel (c : Crc) (b : Byte) : Crc :=
  let x := fun i => c.getLsbD i ^^ b.getLsbD i
  let p := x 0 ^^ x 1 ^^ x 2 ^^ x 3 ^^ x 4 ^^ x 5 ^^ x 6 ^^ x 7
  BitVec.ofBoolListLE
    [p ^^ c.getLsbD 8, c.getLsbD 9, c.getLsbD 10, c.getLsbD 11,
     c.getLsbD 12, c.getLsbD 13, x 0 ^^ c.getLsbD 14, x 0 ^^ x 1 ^^ c.getLsbD 15,
     x 1 ^^ x 2, x 2 ^^ x 3, x 3 ^^ x 4, x 4 ^^ x 5,
     x 5 ^^ x 6, x 6 ^^ x 7, p ^^ x 7, p]

/-- Rows 0 to 7 of the table of R65. -/
def crcTable0 : List Crc :=
  [0x0000#16, 0xC0C1#16, 0xC181#16, 0x0140#16, 0xC301#16, 0x03C0#16, 0x0280#16, 0xC241#16,
   0xC601#16, 0x06C0#16, 0x0780#16, 0xC741#16, 0x0500#16, 0xC5C1#16, 0xC481#16, 0x0440#16,
   0xCC01#16, 0x0CC0#16, 0x0D80#16, 0xCD41#16, 0x0F00#16, 0xCFC1#16, 0xCE81#16, 0x0E40#16,
   0x0A00#16, 0xCAC1#16, 0xCB81#16, 0x0B40#16, 0xC901#16, 0x09C0#16, 0x0880#16, 0xC841#16,
   0xD801#16, 0x18C0#16, 0x1980#16, 0xD941#16, 0x1B00#16, 0xDBC1#16, 0xDA81#16, 0x1A40#16,
   0x1E00#16, 0xDEC1#16, 0xDF81#16, 0x1F40#16, 0xDD01#16, 0x1DC0#16, 0x1C80#16, 0xDC41#16,
   0x1400#16, 0xD4C1#16, 0xD581#16, 0x1540#16, 0xD701#16, 0x17C0#16, 0x1680#16, 0xD641#16,
   0xD201#16, 0x12C0#16, 0x1380#16, 0xD341#16, 0x1100#16, 0xD1C1#16, 0xD081#16, 0x1040#16]

/-- Rows 8 to 15 of the table of R65. -/
def crcTable1 : List Crc :=
  [0xF001#16, 0x30C0#16, 0x3180#16, 0xF141#16, 0x3300#16, 0xF3C1#16, 0xF281#16, 0x3240#16,
   0x3600#16, 0xF6C1#16, 0xF781#16, 0x3740#16, 0xF501#16, 0x35C0#16, 0x3480#16, 0xF441#16,
   0x3C00#16, 0xFCC1#16, 0xFD81#16, 0x3D40#16, 0xFF01#16, 0x3FC0#16, 0x3E80#16, 0xFE41#16,
   0xFA01#16, 0x3AC0#16, 0x3B80#16, 0xFB41#16, 0x3900#16, 0xF9C1#16, 0xF881#16, 0x3840#16,
   0x2800#16, 0xE8C1#16, 0xE981#16, 0x2940#16, 0xEB01#16, 0x2BC0#16, 0x2A80#16, 0xEA41#16,
   0xEE01#16, 0x2EC0#16, 0x2F80#16, 0xEF41#16, 0x2D00#16, 0xEDC1#16, 0xEC81#16, 0x2C40#16,
   0xE401#16, 0x24C0#16, 0x2580#16, 0xE541#16, 0x2700#16, 0xE7C1#16, 0xE681#16, 0x2640#16,
   0x2200#16, 0xE2C1#16, 0xE381#16, 0x2340#16, 0xE101#16, 0x21C0#16, 0x2080#16, 0xE041#16]

/-- Rows 16 to 23 of the table of R65. -/
def crcTable2 : List Crc :=
  [0xA001#16, 0x60C0#16, 0x6180#16, 0xA141#16, 0x6300#16, 0xA3C1#16, 0xA281#16, 0x6240#16,
   0x6600#16, 0xA6C1#16, 0xA781#16, 0x6740#16, 0xA501#16, 0x65C0#16, 0x6480#16, 0xA441#16,
   0x6C00#16, 0xACC1#16, 0xAD81#16, 0x6D40#16, 0xAF01#16, 0x6FC0#16, 0x6E80#16, 0xAE41#16,
   0xAA01#16, 0x6AC0#16, 0x6B80#16, 0xAB41#16, 0x6900#16, 0xA9C1#16, 0xA881#16, 0x6840#16,
   0x7800#16, 0xB8C1#16, 0xB981#16, 0x7940#16, 0xBB01#16, 0x7BC0#16, 0x7A80#16, 0xBA41#16,
   0xBE01#16, 0x7EC0#16, 0x7F80#16, 0xBF41#16, 0x7D00#16, 0xBDC1#16, 0xBC81#16, 0x7C40#16,
   0xB401#16, 0x74C0#16, 0x7580#16, 0xB541#16, 0x7700#16, 0xB7C1#16, 0xB681#16, 0x7640#16,
   0x7200#16, 0xB2C1#16, 0xB381#16, 0x7340#16, 0xB101#16, 0x71C0#16, 0x7080#16, 0xB041#16]

/-- Rows 24 to 31 of the table of R65. -/
def crcTable3 : List Crc :=
  [0x5000#16, 0x90C1#16, 0x9181#16, 0x5140#16, 0x9301#16, 0x53C0#16, 0x5280#16, 0x9241#16,
   0x9601#16, 0x56C0#16, 0x5780#16, 0x9741#16, 0x5500#16, 0x95C1#16, 0x9481#16, 0x5440#16,
   0x9C01#16, 0x5CC0#16, 0x5D80#16, 0x9D41#16, 0x5F00#16, 0x9FC1#16, 0x9E81#16, 0x5E40#16,
   0x5A00#16, 0x9AC1#16, 0x9B81#16, 0x5B40#16, 0x9901#16, 0x59C0#16, 0x5880#16, 0x9841#16,
   0x8801#16, 0x48C0#16, 0x4980#16, 0x8941#16, 0x4B00#16, 0x8BC1#16, 0x8A81#16, 0x4A40#16,
   0x4E00#16, 0x8EC1#16, 0x8F81#16, 0x4F40#16, 0x8D01#16, 0x4DC0#16, 0x4C80#16, 0x8C41#16,
   0x4400#16, 0x84C1#16, 0x8581#16, 0x4540#16, 0x8701#16, 0x47C0#16, 0x4680#16, 0x8641#16,
   0x8201#16, 0x42C0#16, 0x4380#16, 0x8341#16, 0x4100#16, 0x81C1#16, 0x8081#16, 0x4040#16]

/-- The table `T` of R65, `T[i] = crc_update(0x0000, i)`. -/
def crcTable : List Crc := crcTable0 ++ crcTable1 ++ crcTable2 ++ crcTable3

/-- The table form of `crc_update` (R65): `(c >> 8) ^ T[(c ^ b) & 0xFF]`. -/
def crcByTable (c : Crc) (b : Byte) : Crc :=
  (c >>> 8) ^^^ crcTable.getD ((c ^^^ b.setWidth 16) &&& 0x00FF#16).toNat 0x0000#16

/-- One turn of the left-shifting register with the normal polynomial 0x8005 (R60). -/
def crcLeftBit (t : Crc) : Crc :=
  if t.getLsbD 15 then (t <<< 1) ^^^ Config.crcPolyNormal else t <<< 1

/-- `n` turns of the left-shifting register. -/
def crcLeftBits : Nat → Crc → Crc
  | 0, t => t
  | n + 1, t => crcLeftBits n (crcLeftBit t)

/-- The left-shifting register's intake of one byte, the byte entering the high byte (R60). -/
def crcLeftUpdate (c : Crc) (b : Byte) : Crc := crcLeftBits 8 (c ^^^ (b.setWidth 16 <<< 8))

/-- CRC-16/ARC as R60 names it: "width 16, polynomial 0x8005, initial value 0x0000, input and output reflected, no final XOR". -/
def crcReflected (bytes : List Byte) : Crc :=
  ((bytes.map BitVec.reverse).foldl crcLeftUpdate 0x0000#16).reverse

end Sys2Proof.Machine
end

