-- ==== Sys2Proof/Machine/State.lean ====
section
/-! DEFINITION. The state of the block: the ten registers of 10_state.md R13, and the two fields by which the model
holds the block's interface, `acc` (log entry 1) and `port` (log entry 2). Plain data. -/

namespace Sys2Proof.Machine

/-- The six values of the register `phase` (R15); the encodings 6 and 7 do not exist (log entry 5). -/
inductive Phase where
  /-- armed; receiving the 4 preamble bytes -/
  | pre
  /-- preamble was all zero; receiving the 4 length bytes -/
  | len
  /-- receiving span bytes; waiting for more bytes or for `FSPANEND` -/
  | span
  /-- span ended with `cnt == len`; receiving the 2 checksum bytes -/
  | ck
  /-- final: frame structurally valid -/
  | ok
  /-- final: fatal validation error, code in `err` -/
  | err
  deriving DecidableEq, Repr

/-- The three fatal validation errors (60_exceptions.md R92). -/
inductive FatalError where
  | invalidPreamble
  | lengthMismatch
  | checksumMismatch
  deriving DecidableEq, Repr

/-- The four values of the register `err` (R24): no error, or one of the three. -/
inductive ErrCode where
  | noError
  | fatal (e : FatalError)
  deriving DecidableEq, Repr

/-- An event (00_scope.md R7): `RESET`, or the presentation of one command word. -/
inductive Event where
  | reset
  | command (w : CmdWord)
  deriving DecidableEq, Repr

/-- What the host presents at one moment: `RESET` or not, and a command word or none.
Both can stand at the same moment (70_reset_and_hazards.md R107); neither is the idle block (42_nop_and_reserved.md R90). -/
structure Moment where
  reset : Bool
  cmd : Option CmdWord
  deriving DecidableEq, Repr

/-- The state. The first ten fields are the block's ten registers (R13); the last two are the model's own. -/
structure State where
  /-- running CRC-16/ARC of the bytes given to unit G since the last `GINIT` (R14) -/
  gcrc : Crc
  /-- which field of the frame the next byte belongs to, or the final verdict (R15) -/
  phase : Phase
  /-- index of the next byte inside a fixed-width field (R16) -/
  idx : BitVec 2
  /-- raw preamble bytes received so far (R17) -/
  pre : Word32
  /-- declared length bytes received so far (R18) -/
  len : Word32
  /-- number of span bytes accepted, modulo 2^32 (R19) -/
  cnt : Word32
  /-- sticky: `cnt` has wrapped (R20) -/
  ovf : Bool
  /-- running CRC-16/ARC of the span bytes accepted (R22) -/
  fcrc : Crc
  /-- received checksum bytes so far (R23) -/
  rxck : Crc
  /-- code of the fatal error (R24) -/
  err : ErrCode
  /-- NOT a register: the result bit of the last step's event, none where that step carried no command word
  (R7, R28, R49, R107; DESIGN CHOICE, log entry 1) -/
  acc : Option Bool
  /-- NOT a register: what the host will present next, the first moment first
  (R7, R28, R39; DESIGN CHOICE, log entry 2) -/
  port : List Moment
  deriving DecidableEq, Repr

/-- The reasons a step can stop with a fault: none. The step function of the block is total and has
"no undefined behaviour, no stuck state" (00_scope.md R8); the block's fatal validation errors are states (R96), not stops. -/
inductive Fault
  deriving DecidableEq, Repr

/-- The reasons a step can be refused by the MODEL. (An operation the BLOCK refuses, `acc == 0`, is a next state: R104, log entry 4.) -/
inductive Refusal where
  /-- Raised by an arm of `exec` whose instruction has no meaning yet: by no arm of this model. Safe: the machine stops. -/
  | notModelled (mnemonic : String)
  deriving DecidableEq, Repr

/-- The machine right after `RESET` (70_reset_and_hazards.md R108): every register at zero, which is `PRE`, no error.
The interface: no result bit yet (log entry 1), nothing presented yet (log entry 2). -/
def State.reset : State where
  gcrc := 0x0000#16
  phase := .pre
  idx := 0#2
  pre := 0x00000000#32
  len := 0x00000000#32
  cnt := 0x00000000#32
  ovf := false
  fcrc := 0x0000#16
  rxck := 0x0000#16
  err := .noError
  acc := none
  port := []

end Sys2Proof.Machine
end

