-- ==== Sys2Proof/Machine/Flags.lean ====
section
/-! DEFINITION. The flag `ovf`, the three comparisons, the numeric codes of `phase` and `err`, the three output lines and
the `STATUS` view (10_state.md R15, R20, R24 to R26; 41_frame_validator.md R76, R78, R79, R81). -/

namespace Sys2Proof.Machine

/-- The flag `ovf` after a span byte: set where `cnt` is at its largest value, otherwise unchanged (R20, R78). -/
def ovfNext (ovf : Bool) (cnt : Word32) : Bool := if cnt = Config.cntMax then true else ovf

/-- The preamble detector's comparison, on all 32 bits together (R76). -/
def preambleHolds (p : Word32) : Bool := p = Config.preambleValue

/-- The length check's comparison: `ovf == 0 and cnt == len` (R81). -/
def lengthHolds (ovf : Bool) (cnt len : Word32) : Bool := !ovf && cnt = len

/-- The checksum comparator, on all 16 bits (R79). -/
def checksumHolds (r fcrc : Crc) : Bool := r = fcrc

/-- The encoding of `phase` (R15). -/
def phaseCode : Phase → BitVec 3
  | .pre => 0#3
  | .len => 1#3
  | .span => 2#3
  | .ck => 3#3
  | .ok => 4#3
  | .err => 5#3

/-- `code(E)` of the three errors (R24, R92, R96). -/
def errorCode : FatalError → BitVec 2
  | .invalidPreamble => 1#2
  | .lengthMismatch => 2#2
  | .checksumMismatch => 3#2

/-- The encoding of the register `err` (R24). -/
def errCode : ErrCode → BitVec 2
  | .noError => 0#2
  | .fatal e => errorCode e

/-- The output `ok` (R25). -/
def okOut (s : State) : Bool := s.phase = .ok

/-- The output `fail` (R25). -/
def failOut (s : State) : Bool := s.phase = .err

/-- The output `incomplete` (R25, R97). -/
def incompleteOut (s : State) : Bool :=
  s.phase = .pre || s.phase = .len || s.phase = .span || s.phase = .ck

/-- The 8-bit view `STATUS`: `OVF` 7, `ERR` 6:5, `IDX` 4:3, `PHASE` 2:0 (R26). -/
def status (s : State) : BitVec 8 :=
  BitVec.ofBool s.ovf ++ errCode s.err ++ s.idx ++ phaseCode s.phase

end Sys2Proof.Machine
end

