-- ==== Sys2Proof/Machine/Operands.lean ====
section
/-! DEFINITION. The operand forms: how a byte enters a register, and the byte order of the multi-byte fields
(00_scope.md R9, 20_memory.md R32, 30_encoding.md R44, R46). -/

namespace Sys2Proof.Machine

/-- `{r[23:0], d}`: shift a byte in at the bottom of a 32-bit register (R76, R77). -/
def shiftIn (r : Word32) (d : Byte) : Word32 := r.extractLsb' 0 24 ++ d

/-- `{d, r[7:0]}`: the byte becomes the high byte (R79, first checksum byte). -/
def withHighByte (r : Crc) (d : Byte) : Crc := d ++ r.extractLsb' 0 8

/-- `{r[15:8], d}`: the byte becomes the low byte (R79, second checksum byte). -/
def withLowByte (r : Crc) (d : Byte) : Crc := r.extractLsb' 8 8 ++ d

/-- `be32(b0,b1,b2,b3) = {b0,b1,b2,b3}` (R9). -/
def be32 (b0 b1 b2 b3 : Byte) : Word32 := b0 ++ b1 ++ b2 ++ b3

/-- `be16(b0,b1) = {b0,b1}` (R9). -/
def be16 (b0 b1 : Byte) : Crc := b0 ++ b1

/-- `v[15:8]` of a checksum: the byte the wire carries first (R46, R67). -/
def highByte (c : Crc) : Byte := c.extractLsb' 8 8

/-- `v[7:0]` of a checksum: the byte the wire carries second (R46, R67). -/
def lowByte (c : Crc) : Byte := c.extractLsb' 0 8

/-- The four bytes of a 32-bit field in wire order, most significant first (R32). -/
def wireBytes32 (v : Word32) : List Byte :=
  [v.extractLsb' 24 8, v.extractLsb' 16 8, v.extractLsb' 8 8, v.extractLsb' 0 8]

/-- The two bytes of a checksum in wire order, most significant first (R32, R46). -/
def wireBytes16 (c : Crc) : List Byte := [highByte c, lowByte c]

/-- The unsigned number that a big-endian byte string denotes (R9, R44). -/
def beValue (bytes : List Byte) : Nat := bytes.foldl (fun n b => n * 256 + b.toNat) 0

end Sys2Proof.Machine
end

