-- ==== Sys2Proof/Machine/Ops.lean ====
section
/-! DEFINITION. The operations the meanings share: the result bit, the entry of a fatal validation error, arming unit F,
and reset. The block has no memory (20_memory.md R31), so there is no memory operation. -/

namespace Sys2Proof.Machine

/-- `acc <- 1`: the operation was accepted and performed (R10, R49). -/
def accept (s : State) : State := { s with acc := some true }

/-- `acc <- 0`, no register changes: the operation was refused (R49, R80, R82, R89, R104). -/
def refuse (s : State) : State := { s with acc := some false }

/-- `raise E` (60_exceptions.md R96): `phase`, `err` and `idx`, and nothing else.
Nothing is saved and control goes nowhere, so the spec has no return beside it (R99): `armF` and `resetAll` leave `ERR`. -/
def raiseError (e : FatalError) (s : State) : State :=
  { s with phase := .err, err := .fatal e, idx := 0#2 }

/-- Every register of unit F at its armed value (R74); `gcrc` is not touched. -/
def armF (s : State) : State :=
  { s with
    phase := .pre, idx := 0#2, err := .noError
    pre := 0x00000000#32, len := 0x00000000#32
    cnt := 0x00000000#32, ovf := false
    fcrc := Config.crcInit, rxck := 0x0000#16 }

/-- The event `RESET` (70_reset_and_hazards.md R107, R108): every register at its reset value, no result bit.
What the host will present afterwards is the host's, and stays (log entry 2). -/
def resetAll (s : State) : State := { State.reset with port := s.port }

/-- No event (42_nop_and_reserved.md R90): no register changes; there is no result bit (R28, log entry 3). -/
def idle (s : State) : State := { s with acc := none }

end Sys2Proof.Machine
end

