-- ==== Sys2Proof/Machine/Nop.lean ====
section
/-! DEFINITION. `NOP` and the reserved command words (42_nop_and_reserved.md). -/

namespace Sys2Proof.Machine

/-- `NOP` (R88): accepted, no register changes. -/
def execNop (s : State) : Host.Outcome State Fault Refusal := .next (accept s)

/-- A reserved command word (R53, R89): refused, no register changes, no error recorded. -/
def execReserved (s : State) : Host.Outcome State Fault Refusal := .next (refuse s)

end Sys2Proof.Machine
end

