-- ==== Sys2Proof/Machine/UnitF.lean ====
section
/-! DEFINITION. The operations of unit F, the frame-structure validator (41_frame_validator.md R74 to R82).
All right-hand sides of a rule read the state before the event (00_scope.md R10). -/

namespace Sys2Proof.Machine

/-- `FARM` (R74): arm unit F for a new frame, in every phase. -/
def execFarm (s : State) : Host.Outcome State Fault Refusal := .next (accept (armF s))

/-- `FBYTE d` in `PRE` (R76): the preamble detector, which judges the preamble once, at its fourth byte. -/
def fbytePre (d : Byte) (s : State) : State :=
  let p := shiftIn s.pre d
  if s.idx ≠ Config.lastFieldIdx then { s with pre := p, idx := s.idx + 1#2 }
  else if preambleHolds p then { s with pre := p, idx := 0#2, phase := .len }
  else raiseError .invalidPreamble { s with pre := p, idx := 0#2 }

/-- `FBYTE d` in `LEN` (R77): the length-field parser, which rejects no value. -/
def fbyteLen (d : Byte) (s : State) : State :=
  if s.idx ≠ Config.lastFieldIdx then { s with len := shiftIn s.len d, idx := s.idx + 1#2 }
  else { s with len := shiftIn s.len d, idx := 0#2, phase := .span }

/-- `FBYTE d` in `SPAN` (R78): the checksum accumulator and the span counter. -/
def fbyteSpan (d : Byte) (s : State) : State :=
  { s with fcrc := crcUpdate s.fcrc d, ovf := ovfNext s.ovf s.cnt, cnt := s.cnt + 1#32 }

/-- `FBYTE d` in `CK` (R79): the checksum comparator, high byte first. -/
def fbyteCk (d : Byte) (s : State) : State :=
  if s.idx = 0#2 then { s with rxck := withHighByte s.rxck d, idx := 1#2 }
  else
    let r := withLowByte s.rxck d
    if checksumHolds r s.fcrc then { s with rxck := r, idx := 0#2, phase := .ok }
    else raiseError .checksumMismatch { s with rxck := r, idx := 0#2 }

/-- `FBYTE d` (R75): `phase`, and only `phase`, selects the rule; in `OK` and `ERR` the byte is not consumed (R80). -/
def execFbyte (d : Byte) (s : State) : Host.Outcome State Fault Refusal :=
  match s.phase with
  | .pre => .next (accept (fbytePre d s))
  | .len => .next (accept (fbyteLen d s))
  | .span => .next (accept (fbyteSpan d s))
  | .ck => .next (accept (fbyteCk d s))
  | .ok => .next (refuse s)
  | .err => .next (refuse s)

/-- `FSPANEND` in `SPAN` (R81): the length check, on the full count. -/
def spanEnd (s : State) : State :=
  if lengthHolds s.ovf s.cnt s.len then { s with phase := .ck, idx := 0#2 }
  else raiseError .lengthMismatch s

/-- `FSPANEND` (R81); in every phase but `SPAN` it is refused (R82). -/
def execFspanend (s : State) : Host.Outcome State Fault Refusal :=
  match s.phase with
  | .span => .next (accept (spanEnd s))
  | .pre => .next (refuse s)
  | .len => .next (refuse s)
  | .ck => .next (refuse s)
  | .ok => .next (refuse s)
  | .err => .next (refuse s)

end Sys2Proof.Machine
end

