-- ==== Sys2Proof/Machine/UnitG.lean ====
section
/-! DEFINITION. The operations of unit G, the CRC-16/ARC generator (40_crc_generator.md R70, R71). -/

namespace Sys2Proof.Machine

/-- `GINIT` (R70): start a new byte range. -/
def execGinit (s : State) : Host.Outcome State Fault Refusal :=
  .next (accept { s with gcrc := Config.crcInit })

/-- `GBYTE d` (R71): append one byte to the range. -/
def execGbyte (d : Byte) (s : State) : Host.Outcome State Fault Refusal :=
  .next (accept { s with gcrc := crcUpdate s.gcrc d })

end Sys2Proof.Machine
end

