-- ==== Sys2Proof/Machine/Dispatch.lean ====
section
/-! DEFINITION. One arm per operation (30_encoding.md R50). -/

namespace Sys2Proof.Machine

/-- The effect of one operation (30_encoding.md R50). -/
def exec (i : Instr) (s : State) : Host.Outcome State Fault Refusal :=
  match i with
  | .nop => Sys2Proof.Machine.execNop s
  | .ginit => Sys2Proof.Machine.execGinit s
  | .gbyte d => Sys2Proof.Machine.execGbyte d s
  | .farm => Sys2Proof.Machine.execFarm s
  | .fbyte d => Sys2Proof.Machine.execFbyte d s
  | .fspanend => Sys2Proof.Machine.execFspanend s

end Sys2Proof.Machine
end

