-- ==== Sys2Proof/Machine/Event.lean ====
section
/-! DEFINITION. What one moment at the block's interface does: the event it stands for (00_scope.md R7,
70_reset_and_hazards.md R107, 42_nop_and_reserved.md R90), the command word decoded and executed as presented (20_memory.md R41). -/

namespace Sys2Proof.Machine

/-- A moment at which nothing is presented (R90). -/
def quiet : Moment := { reset := false, cmd := none }

/-- The moment at which the host presents one command word. -/
def present (w : CmdWord) : Moment := { reset := false, cmd := some w }

/-- The moment at which the host issues an operation by its canonical command word (R52). -/
def issue (i : Instr) : Moment := present (encode i)

/-- The event a moment stands for: `RESET` takes precedence over a command word presented at the same moment (R107). -/
def eventOf (m : Moment) : Option Event :=
  if m.reset then some .reset
  else match m.cmd with
    | some w => some (.command w)
    | none => none

/-- The operation a moment executes: none for `RESET`, for no event, and for a reserved word. -/
def instrOf (m : Moment) : Option Instr :=
  match eventOf m with
  | some (.command w) =>
    match decode w with
    | .ok i => some i
    | .error _ => none
  | some .reset => none
  | none => none

/-- A command word is executed as presented (R50, R53); a reserved word is refused (R89). -/
def execWord (w : CmdWord) (s : State) : Host.Outcome State Fault Refusal :=
  match decode w with
  | .ok i => exec i s
  | .error (.reservedOp _) => execReserved s

/-- The effect of one event (R7). -/
def execEvent (e : Event) (s : State) : Host.Outcome State Fault Refusal :=
  match e with
  | .reset => .next (resetAll s)
  | .command w => execWord w s

/-- The effect of one moment: that of its event, or none (R90). -/
def execMoment (m : Moment) (s : State) : Host.Outcome State Fault Refusal :=
  match eventOf m with
  | some e => execEvent e s
  | none => .next (idle s)

/-- What the host presents now: the first moment of `port`, or nothing (R28, R90, log entries 2 and 3). -/
def nextMoment (s : State) : Moment :=
  match s.port with
  | [] => quiet
  | m :: _ => m

/-- The state with that moment taken off `port`. -/
def afterMoment (s : State) : State := { s with port := s.port.tail }

/-- The moment that stands for the table's number `w` of `nbits` bits; a number that is no 12-bit command word
cannot be presented (R49, log entry 11). -/
def tableMoment (nbits w : Nat) : Moment :=
  if w % 2 ^ nbits < 2 ^ 12 then present (BitVec.ofNat 12 (w % 2 ^ nbits)) else quiet

end Sys2Proof.Machine
end

