-- ==== Sys2Proof/Machine/Step.lean ====
section
/-! DEFINITION. One step of the machine: what the host presents next, executed (00_scope.md R7, 20_memory.md R39). -/

namespace Sys2Proof.Machine

/-- One step: the next moment is taken off the port and executed. Total (R8): it always answers a next state. -/
def step (s : State) : Host.Outcome State Fault Refusal := execMoment (nextMoment s) (afterMoment s)

/-- The state in which the host presents the table's word `w` next. The block fetches nothing (20_memory.md R41), so this
stands for the host's presenting a command word on the port (log entry 2). -/
def State.withFetchWord (s : State) (nbits w : Nat) : State :=
  { s with port := tableMoment nbits w :: s.port }

end Sys2Proof.Machine
end

