-- ==== Sys2Proof/Machine/Asm.lean ====
section
/-! DEFINITION. The textual form of the operations (30_encoding.md R55): "One operation per line; the mnemonic in capitals; the operand of
`GBYTE` and `FBYTE` as a two-digit hex byte with `0x` prefix; `;` starts a comment." A line is a list of characters (log entry 12). -/

namespace Sys2Proof.Machine

/-- Why a line is no operation. -/
inductive AsmReject where
  /-- the first word is no mnemonic of R50 -/
  | unknownMnemonic
  /-- the operand is missing, is not `0x` and two hex digits, or one stands where the operation has none -/
  | badOperand
  /-- more than one operation on the line -/
  | extraText
  deriving DecidableEq, Repr

/-- The mnemonic of an operation, in capitals (R50, R55). -/
def mnemonicOf : Instr → List Char
  | .nop => ['N', 'O', 'P']
  | .ginit => ['G', 'I', 'N', 'I', 'T']
  | .gbyte _ => ['G', 'B', 'Y', 'T', 'E']
  | .farm => ['F', 'A', 'R', 'M']
  | .fbyte _ => ['F', 'B', 'Y', 'T', 'E']
  | .fspanend => ['F', 'S', 'P', 'A', 'N', 'E', 'N', 'D']

/-- The sixteen hex digits, as the spec's listings write them. -/
def hexDigits : List Char :=
  ['0', '1', '2', '3', '4', '5', '6', '7', '8', '9', 'A', 'B', 'C', 'D', 'E', 'F']

/-- One hex digit. -/
def hexChar (n : Nat) : Char := hexDigits.getD n '0'

/-- The value of a hex digit. -/
def hexValue (c : Char) : Option Nat := hexDigits.findIdx? (· == c)

/-- The operand as text: `0x` and two hex digits (R55). -/
def renderByte (d : Byte) : List Char := ['0', 'x', hexChar (d.toNat / 16), hexChar (d.toNat % 16)]

/-- The text of an operation (R55). -/
def render : Instr → List Char
  | .nop => mnemonicOf .nop
  | .ginit => mnemonicOf .ginit
  | .gbyte d => mnemonicOf (.gbyte d) ++ ' ' :: renderByte d
  | .farm => mnemonicOf .farm
  | .fbyte d => mnemonicOf (.fbyte d) ++ ' ' :: renderByte d
  | .fspanend => mnemonicOf .fspanend

/-- A line without its comment (R55). -/
def dropComment (line : List Char) : List Char := line.takeWhile (· != ';')

/-- The words of a line, parted at spaces; `cur` is the word being read, its last character first. -/
def wordsFrom : List Char → List Char → List (List Char)
  | cur, [] => if cur.isEmpty then [] else [cur.reverse]
  | cur, c :: cs =>
    if c == ' ' then (if cur.isEmpty then wordsFrom [] cs else cur.reverse :: wordsFrom [] cs)
    else wordsFrom (c :: cur) cs

/-- The byte an operand's text denotes: `0x` and exactly two hex digits (R55). -/
def parseByte : List Char → Option Byte
  | ['0', 'x', hi, lo] =>
    match hexValue hi, hexValue lo with
    | some h, some l => some (BitVec.ofNat 8 (16 * h + l))
    | _, _ => none
  | _ => none

/-- The operation of a mnemonic and its operand text, where it has one. -/
def parseOp (mnemonic : List Char) (operand : Option (List Char)) : Except AsmReject Instr :=
  if mnemonic = mnemonicOf .nop then (if operand.isNone then .ok .nop else .error .badOperand)
  else if mnemonic = mnemonicOf .ginit then (if operand.isNone then .ok .ginit else .error .badOperand)
  else if mnemonic = mnemonicOf .farm then (if operand.isNone then .ok .farm else .error .badOperand)
  else if mnemonic = mnemonicOf .fspanend then (if operand.isNone then .ok .fspanend else .error .badOperand)
  else if mnemonic = mnemonicOf (.gbyte 0x00#8) then
    (match operand.bind parseByte with
      | some d => .ok (.gbyte d)
      | none => .error .badOperand)
  else if mnemonic = mnemonicOf (.fbyte 0x00#8) then
    (match operand.bind parseByte with
      | some d => .ok (.fbyte d)
      | none => .error .badOperand)
  else .error .unknownMnemonic

/-- The operation on one line; a line that holds nothing but a comment holds none. -/
def parseLine (line : List Char) : Except AsmReject (Option Instr) :=
  match wordsFrom [] (dropComment line) with
  | [] => .ok none
  | [m] => (parseOp m none).map some
  | [m, a] => (parseOp m (some a)).map some
  | _ => .error .extraText

end Sys2Proof.Machine
end

