-- ==== Sys2Proof/Machine/Frame.lean ====
section
/-! DEFINITION. The wire frame unit F validates (30_encoding.md R43 to R48) and the map of offsets inside it (20_memory.md R37).
The span's own fields (codec, counts, records) are opaque to the block and are not told apart (R54, R57). -/

namespace Sys2Proof.Machine

/-- A complete frame around a span (R43): zero preamble, length, span, checksum, multi-byte fields big-endian. -/
def envelope (span : List Byte) : List Byte :=
  [0x00#8, 0x00#8, 0x00#8, 0x00#8] ++ wireBytes32 (BitVec.ofNat 32 span.length) ++ span ++ wireBytes16 (crc16 span)

/-- A field of the frame, with the index of a byte in it (R37). -/
inductive FrameField where
  | preamble (i : Nat)
  | length (i : Nat)
  | span (i : Nat)
  | checksum (i : Nat)
  | nextFrame (i : Nat)
  deriving DecidableEq, Repr

/-- The field at an offset of a frame whose span has `e` bytes: the rows of R37. -/
def fieldAt (e offset : Nat) : FrameField :=
  if offset < 4 then .preamble offset
  else if offset < 8 then .length (offset - 4)
  else if offset < 8 + e then .span (offset - 8)
  else if offset < 8 + e + 2 then .checksum (offset - (8 + e))
  else .nextFrame (offset - (8 + e + 2))

/-- The column "taken in phase" of R37; a byte of the next frame is not accepted. -/
def takenIn : FrameField → Option Phase
  | .preamble _ => some .pre
  | .length _ => some .len
  | .span _ => some .span
  | .checksum _ => some .ck
  | .nextFrame _ => none

end Sys2Proof.Machine
end

