-- ==== Sys2Proof/Machine/Observe.lean ====
section
/-! DEFINITION. The registers by name, and what the host reads of each (10_state.md R13, R27; 00_scope.md R10).
Reading is a function of the state: it changes nothing (R27, R72). -/

namespace Sys2Proof.Machine

/-- The ten register names (R13). -/
inductive Reg where
  | gcrc | phase | idx | pre | len | cnt | ovf | fcrc | rxck | err
  deriving DecidableEq, Repr

/-- The two units (00_scope.md R1). -/
inductive BlockUnit where
  | g | f
  deriving DecidableEq, Repr

/-- The ten registers in the order of R13. -/
def allRegs : List Reg := [.gcrc, .phase, .idx, .pre, .len, .cnt, .ovf, .fcrc, .rxck, .err]

/-- The column "width" of R13. -/
def regWidth : Reg → Nat
  | .gcrc => 16
  | .phase => 3
  | .idx => 2
  | .pre => 32
  | .len => 32
  | .cnt => 32
  | .ovf => 1
  | .fcrc => 16
  | .rxck => 16
  | .err => 2

/-- The column "unit" of R13. -/
def regUnit : Reg → BlockUnit
  | .gcrc => .g
  | .phase => .f
  | .idx => .f
  | .pre => .f
  | .len => .f
  | .cnt => .f
  | .ovf => .f
  | .fcrc => .f
  | .rxck => .f
  | .err => .f

/-- `x[r]`: the value of a register, as the host reads it (R10, R27). -/
def readReg (s : State) (r : Reg) : BitVec (regWidth r) :=
  match r with
  | .gcrc => s.gcrc
  | .phase => phaseCode s.phase
  | .idx => s.idx
  | .pre => s.pre
  | .len => s.len
  | .cnt => s.cnt
  | .ovf => BitVec.ofBool s.ovf
  | .fcrc => s.fcrc
  | .rxck => s.rxck
  | .err => errCode s.err

/-- Two states hold the same value in every register of a unit. -/
def AgreeOn (u : BlockUnit) (s t : State) : Prop :=
  ∀ r : Reg, regUnit r = u → readReg s r = readReg t r

/-- Two states hold the same value in every register: "no register changes" (R80, R82, R88, R89). -/
def SameRegs (s t : State) : Prop := ∀ r : Reg, readReg s r = readReg t r

end Sys2Proof.Machine
end

