-- ==== Sys2Proof/Machine/Position.lean ====
section
/-! DEFINITION. Where in the frame the block stands: the program-counter analogue's offset (10_state.md R21) and the number
of bytes accepted since the arm (41_frame_validator.md R86). Both are views of the state, not state. -/

namespace Sys2Proof.Machine

/-- The byte offset from the start of the frame that the next byte will be taken at (R21).
None where the rule gives none: in `SPAN` once `ovf` is 1, and in the two final phases. -/
def frameOffset (s : State) : Option Nat :=
  match s.phase with
  | .pre => some s.idx.toNat
  | .len => some (4 + s.idx.toNat)
  | .span => if s.ovf then none else some (8 + s.cnt.toNat)
  | .ck => some (8 + s.len.toNat + s.idx.toNat)
  | .ok => none
  | .err => none

/-- The number of span bytes as `cnt` and `ovf` tell it (R19, R86): `cnt`, and 2^32 more if `ovf`. -/
def spanCount (s : State) : Nat := s.cnt.toNat + (if s.ovf then 2 ^ 32 else 0)

/-- The number of bytes of the stream the block has accepted since the arm (R86).
None in a state no run reaches, `ERR` without an error (10_state.md R29). -/
def bytesAccepted (s : State) : Option Nat :=
  match s.phase with
  | .pre => some s.idx.toNat
  | .len => some (4 + s.idx.toNat)
  | .span => some (8 + spanCount s)
  | .ck => some (8 + s.len.toNat + s.idx.toNat)
  | .ok => some (10 + s.len.toNat)
  | .err =>
    match s.err with
    | .noError => none
    | .fatal .invalidPreamble => some 4
    | .fatal .lengthMismatch => some (8 + spanCount s)
    | .fatal .checksumMismatch => some (10 + s.len.toNat)

/-- The order of the pairs `(phase, idx)` along a frame (R15, R21): the two final phases come last. -/
def positionRank (s : State) : Nat :=
  match s.phase with
  | .pre => s.idx.toNat
  | .len => 4 + s.idx.toNat
  | .span => 8
  | .ck => 9 + s.idx.toNat
  | .ok => 13
  | .err => 13

end Sys2Proof.Machine
end

