-- ==== Sys2Proof/Machine/Pseudo.lean ====
section
/-! DEFINITION. The pseudo-operations and their exact expansions (30_encoding.md R56). -/

namespace Sys2Proof.Machine

/-- A pseudo-operation (R56). -/
inductive Pseudo where
  /-- `CRC16 b0 ... b(n-1)` -/
  | crc16 (bytes : List Byte)
  /-- `FBYTES b0 ... b(n-1)` -/
  | fbytes (bytes : List Byte)
  /-- `FRAME B @e`, and `FRAME B` where no span end is given -/
  | frame (bytes : List Byte) (spanEnd : Option Nat)
  /-- `TRAILER` -/
  | trailer
  deriving DecidableEq, Repr

/-- The side condition of R56: in `FRAME B @e`, `8 + e <= |B|`. -/
def pseudoWf : Pseudo → Bool
  | .crc16 _ => true
  | .fbytes _ => true
  | .frame _ none => true
  | .frame bytes (some e) => 8 + e ≤ bytes.length
  | .trailer => true

/-- The expansion of a pseudo-operation (R56). `TRAILER` expands to no operation: the host reads `gcrc`. -/
def expand : Pseudo → List Instr
  | .crc16 bytes => .ginit :: bytes.map .gbyte
  | .fbytes bytes => bytes.map .fbyte
  | .frame bytes none => .farm :: bytes.map .fbyte
  | .frame bytes (some e) =>
    .farm :: ((bytes.take (8 + e)).map .fbyte ++ .fspanend :: (bytes.drop (8 + e)).map .fbyte)
  | .trailer => []

/-- What `TRAILER` reads: "`gcrc[15:8]` then `gcrc[7:0]`" (R56, R67). -/
def trailerBytes (s : State) : List Byte := wireBytes16 s.gcrc

/-- The operations of R84 for a byte sequence `B` and a span end `e`: the marker comes after `8 + e` bytes,
and is not issued where the decoder has not yet reached the end of the payload (`e` undefined, or fewer bytes presented). -/
def frameOps (bytes : List Byte) (e : Option Nat) : List Instr :=
  expand (.frame bytes (e.filter fun n => 8 + n ≤ bytes.length))

end Sys2Proof.Machine
end

