-- ==== Sys2Proof/Machine/Trace.lean ====
section
/-! DEFINITION. Several moments one after the other (20_memory.md R39): the state they lead to, and what the block accepted on the way. -/

namespace Sys2Proof.Machine

/-- The n-fold application of the step function (R39 (a)): the moments in order, each completely before the next. -/
def runMoments : List Moment → State → Host.Outcome State Fault Refusal
  | [], s => .next s
  | m :: ms, s =>
    match execMoment m s with
    | .next t => runMoments ms t
    | .fault r => .fault r
    | .refused r => .refused r

/-- The byte that unit F took at a moment: the operand of an `FBYTE` answered with `acc == 1` (R75, R80). -/
def takenByte (m : Moment) (t : State) : List Byte :=
  match instrOf m with
  | some (.fbyte d) => if t.acc = some true then [d] else []
  | _ => []

/-- The bytes unit F accepted over a sequence of moments, in order. -/
def acceptedBytes : List Moment → State → List Byte
  | [], _ => []
  | m :: ms, s =>
    match execMoment m s with
    | .next t => takenByte m t ++ acceptedBytes ms t
    | .fault _ => []
    | .refused _ => []

/-- The result bit of every `FBYTE` of a sequence of moments, in order. -/
def fbyteResults : List Moment → State → List (Option Bool)
  | [], _ => []
  | m :: ms, s =>
    match execMoment m s with
    | .next t =>
      (match instrOf m with
        | some (.fbyte _) => [t.acc]
        | _ => []) ++ fbyteResults ms t
    | .fault _ => []
    | .refused _ => []

/-- The bytes a sequence of moments gives to unit G, in order: the operands of its `GBYTE`s (R69). -/
def gbyteData (ms : List Moment) : List Byte :=
  ms.filterMap fun m =>
    match instrOf m with
    | some (.gbyte d) => some d
    | _ => none

/-- The moment starts a new range in unit G or resets the block: `GINIT` or `RESET` (R69). -/
def startsRange (m : Moment) : Bool := eventOf m = some .reset || instrOf m = some .ginit

/-- The moment arms unit F: `FARM` or `RESET` (00_scope.md R11, "Arm"). -/
def arms (m : Moment) : Bool := eventOf m = some .reset || instrOf m = some .farm

/-- The unit that an operation belongs to (R50, column "unit"): none for `NOP`. -/
def unitOf : Instr → Option BlockUnit
  | .nop => none
  | .ginit => some .g
  | .gbyte _ => some .g
  | .farm => some .f
  | .fbyte _ => some .f
  | .fspanend => some .f

/-- The moment carries an operation of the unit (R50). -/
def isUnit (u : BlockUnit) (m : Moment) : Bool :=
  match instrOf m with
  | some i => unitOf i = some u
  | none => false

/-- The column "written by" of 10_state.md R13: the moment may write the register, `p` being the phase before it. -/
def mayWrite (r : Reg) (m : Moment) (p : Phase) : Bool :=
  if eventOf m = some .reset then true
  else match instrOf m with
    | none => false
    | some .nop => false
    | some .ginit => r = .gcrc
    | some (.gbyte _) => r = .gcrc
    | some .farm => regUnit r = .f
    | some .fspanend => r = .phase || r = .idx || r = .err
    | some (.fbyte _) =>
      r = .phase || r = .idx || r = .err ||
      (r = .pre && p = .pre) || (r = .len && p = .len) || (r = .rxck && p = .ck) ||
      ((r = .cnt || r = .ovf || r = .fcrc) && p = .span)

end Sys2Proof.Machine
end

