-- ==== Sys2Proof/Machine/Verdict.lean ====
section
/-! DEFINITION. The verdict in closed form (41_frame_validator.md R84): what the block's state is after a byte sequence `B`
with the span end `e`, written from the table of R84 and not from the step function. -/

namespace Sys2Proof.Machine

/-- The 32-bit number of up to four big-endian bytes, zeros above. -/
def be32Of (bytes : List Byte) : Word32 := BitVec.ofNat 32 (beValue bytes)

/-- `FSPANEND` has been issued: `e` is defined and `8 + e` bytes have been presented (R84). -/
def markerAt (bytes : List Byte) (e : Option Nat) : Option Nat := e.filter fun n => 8 + n ≤ bytes.length

/-- The span `B[8 .. 8+e-1]`. -/
def spanOf (bytes : List Byte) (e : Nat) : List Byte := (bytes.drop 8).take e

/-- The eight rows of R84, the first that applies, as the registers of unit F. -/
def closedForm (bytes : List Byte) (e : Option Nat) (s : State) : State :=
  let armed := armF s
  let n := bytes.length
  if n < 4 then { armed with idx := BitVec.ofNat 2 n, pre := be32Of bytes }
  else if beValue (bytes.take 4) ≠ 0 then
    { armed with phase := .err, err := .fatal .invalidPreamble, pre := be32Of (bytes.take 4) }
  else if n < 8 then
    { armed with phase := .len, idx := BitVec.ofNat 2 (n - 4), len := be32Of (bytes.drop 4) }
  else
    let declared := be32Of ((bytes.drop 4).take 4)
    match markerAt bytes e with
    | none =>
      { armed with
        phase := .span, len := declared, fcrc := crc16 (bytes.drop 8)
        cnt := BitVec.ofNat 32 (n - 8), ovf := decide (2 ^ 32 ≤ n - 8) }
    | some k =>
      let counted := { armed with
        len := declared, fcrc := crc16 (spanOf bytes k)
        cnt := BitVec.ofNat 32 k, ovf := decide (2 ^ 32 ≤ k) }
      let received := bytes.drop (8 + k)
      if k ≠ declared.toNat then { counted with phase := .err, err := .fatal .lengthMismatch }
      else if n < 8 + k + 2 then
        { counted with
          phase := .ck, idx := BitVec.ofNat 2 (n - (8 + k))
          rxck := BitVec.ofNat 16 (beValue received * 256) }
      else
        let trailer := BitVec.ofNat 16 (beValue (received.take 2))
        if trailer ≠ crc16 (spanOf bytes k) then
          { counted with phase := .err, err := .fatal .checksumMismatch, rxck := trailer }
        else { counted with phase := .ok, rxck := trailer }

/-- How many bytes of `B` the block accepts: all of them while no verdict is reached, and the number R84's rows 2, 5, 7 and 8 give. -/
def consumed (bytes : List Byte) (e : Option Nat) : Nat :=
  let n := bytes.length
  if n < 4 then n
  else if beValue (bytes.take 4) ≠ 0 then 4
  else if n < 8 then n
  else
    match markerAt bytes e with
    | none => n
    | some k =>
      if k ≠ beValue ((bytes.drop 4).take 4) then 8 + k
      else if n < 8 + k + 2 then n
      else 10 + k

end Sys2Proof.Machine
end

