-- ==== Sys2Proof/Safety.lean ====
section
/-! DEFINITION. What holds of every state that a run from `RESET` reaches (10_state.md R29), and when unit F stands armed. -/

namespace Sys2Proof.Machine

/-- The span bytes accepted are `span`: what R29 says of `fcrc`, `cnt` and `ovf` in terms of them. -/
def CountsSpan (s : State) (span : List Byte) : Prop :=
  s.fcrc = crc16 span ∧ s.cnt = BitVec.ofNat 32 span.length ∧ (s.ovf = true ↔ 2 ^ 32 ≤ span.length)

/-- The invariants of R29, by `phase` and, in `ERR`, by `err`. `gcrc`, and the model's `acc` and `port`, are unconstrained.
Where the rule speaks of the span bytes accepted, there are such bytes. -/
def Invariants (s : State) : Prop :=
  match s.phase with
  | .pre =>
    s.err = .noError ∧ s.pre.toNat < 2 ^ (8 * s.idx.toNat) ∧ s.len = 0 ∧ s.cnt = 0 ∧ s.ovf = false ∧ s.fcrc = 0 ∧ s.rxck = 0
  | .len =>
    s.err = .noError ∧ s.pre = 0 ∧ s.len.toNat < 2 ^ (8 * s.idx.toNat) ∧ s.cnt = 0 ∧ s.ovf = false ∧ s.fcrc = 0 ∧ s.rxck = 0
  | .span =>
    s.err = .noError ∧ s.pre = 0 ∧ s.idx = 0 ∧ s.rxck = 0 ∧ ∃ span, CountsSpan s span
  | .ck =>
    s.err = .noError ∧ s.pre = 0 ∧ s.ovf = false ∧ s.cnt = s.len ∧ s.idx.toNat ≤ 1 ∧ s.rxck.extractLsb' 0 8 = 0#8 ∧
      (s.idx = 0 → s.rxck = 0) ∧ ∃ span, CountsSpan s span
  | .ok =>
    s.err = .noError ∧ s.pre = 0 ∧ s.ovf = false ∧ s.cnt = s.len ∧ s.idx = 0 ∧ s.rxck = s.fcrc ∧ ∃ span, CountsSpan s span
  | .err =>
    s.idx = 0 ∧
    match s.err with
    | .noError => False
    | .fatal .invalidPreamble =>
      s.pre ≠ 0 ∧ s.len = 0 ∧ s.cnt = 0 ∧ s.ovf = false ∧ s.fcrc = 0 ∧ s.rxck = 0
    | .fatal .lengthMismatch =>
      s.pre = 0 ∧ s.rxck = 0 ∧ (s.ovf = true ∨ s.cnt ≠ s.len) ∧ ∃ span, CountsSpan s span
    | .fatal .checksumMismatch =>
      s.pre = 0 ∧ s.ovf = false ∧ s.cnt = s.len ∧ s.rxck ≠ s.fcrc ∧ ∃ span, CountsSpan s span

/-- Unit F stands armed: every register of it as after `FARM` (R74) or `RESET` (R108, R109). -/
def Armed (s : State) : Prop := s = armF s

/-- Unit F has given its verdict (R25): `ok` or `fail`. -/
def Final (s : State) : Prop := s.phase = .ok ∨ s.phase = .err

end Sys2Proof.Machine
end

