-- ==== Sys2Proof/Certificates/Slice0/Obligations.lean ====
section
/-! DEFINITION. The statements about the model, each a sentence of spec/ or a consequence of its rules.
Where a statement speaks of `acc` or of `port`, it speaks of the model's own fields for the block's result bit
(log entry 1) and for the moments the host presents (log entry 2). -/

open Sys2Proof Sys2Proof.Machine

/-! ### Reset and the idle block -/

/-- 70_reset_and_hazards.md R108: the state after `RESET`, register by register, and its outputs. -/
def Obligations.ResetLeavesEveryRegisterZero : Prop :=
  State.reset.gcrc = 0x0000#16 ∧ State.reset.phase = .pre ∧ State.reset.idx = 0#2 ∧
  State.reset.pre = 0x00000000#32 ∧ State.reset.len = 0x00000000#32 ∧ State.reset.cnt = 0x00000000#32 ∧
  State.reset.ovf = false ∧ State.reset.fcrc = 0x0000#16 ∧ State.reset.rxck = 0x0000#16 ∧ State.reset.err = .noError ∧
  (∀ r, readReg State.reset r = 0) ∧
  status State.reset = 0x00#8 ∧ incompleteOut State.reset = true ∧ okOut State.reset = false ∧ failOut State.reset = false

/-- R107 with R108: from any state, `RESET` gives every register its reset value and no result bit, and a command word presented at the
same moment is not executed. -/
def Obligations.ResetEventOverridesACommandWord : Prop :=
  ∀ (s : State) (word : Option CmdWord) (rest : List Moment),
    s.port = { reset := true, cmd := word } :: rest →
    ∃ t, step s = .next t ∧ SameRegs State.reset t ∧ t.acc = none

/-- R109 (which the spec marks as derived from R70, R74, R108): `RESET` is `GINIT` followed by `FARM`, and the reset state is armed.
That the moments still to come stay on the port is the model's choice (log entry 2). -/
def Obligations.ResetEqualsGinitThenFarm : Prop :=
  Armed State.reset ∧
  ∀ (s : State) (word : Option CmdWord),
    ∃ t u, exec .ginit s = .next t ∧ exec .farm t = .next u ∧
      execMoment { reset := true, cmd := word } s = .next { u with acc := none }

/-- 42_nop_and_reserved.md R90: with no command word presented, every register holds its value, for any number of steps. -/
def Obligations.NoEventNoChange : Prop :=
  (∀ (s : State) (rest : List Moment), s.port = { reset := false, cmd := none } :: rest →
    ∃ t, step s = .next t ∧ SameRegs s t) ∧
  (∀ (s : State) (n : Nat), s.port = [] → ∃ t, Host.Core.run core n s = .next t ∧ SameRegs s t) ∧
  (∀ (s : State) (n : Nat), ∃ t, runMoments (List.replicate n { reset := false, cmd := none }) s = .next t ∧ SameRegs s t)

/-! ### Steps, decoding, encoding -/

/-- A step runs the decoded operation: the command word presented next, decoded, is executed on the state with that moment taken
off the port; and `withFetchWord` presents a word. (The port is the model's own field, log entry 2.) -/
def Obligations.StepRunsTheDecodedOperation : Prop :=
  (∀ (s : State) (w : CmdWord) (rest : List Moment) (i : Instr),
    s.port = { reset := false, cmd := some w } :: rest → decode w = .ok i →
    step s = exec i { s with port := rest }) ∧
  (∀ (s : State) (w : CmdWord) (i : Instr), decode w = .ok i → step (s.withFetchWord 12 w.toNat) = exec i s)

/-- 20_memory.md R39 (a): the steps take the moments off the port in order, and the state after n of them is the n-fold application. -/
def Obligations.StepsTakeThePortInOrder : Prop :=
  ∀ (s : State) (ms rest : List Moment), s.port = ms ++ rest →
    Host.Core.run core ms.length s = runMoments ms { s with port := rest }

/-- R89 with R53: a reserved command word, `0x600 .. 0xFFF`, is refused in every state and changes no register. -/
def Obligations.ReservedWordIsRefused : Prop :=
  ∀ (s : State) (w : CmdWord) (rest : List Moment),
    0x600 ≤ w.toNat → s.port = { reset := false, cmd := some w } :: rest →
    decode w = .error (.reservedOp (cmdOp w)) ∧
    step s = .next { s with port := rest, acc := some false }

/-- Decoding and encoding agree, both ways: no bit of an operation is lost, and a word that decodes differs from the canonical one
at most in the ignored `data` bits of format C0 (R49 to R53). -/
def Obligations.DecodeAndEncodeAgree : Prop :=
  (∀ i : Instr, i.wf = true → decode (encode i) = .ok i ∧ cmdAssigned (encode i) = true) ∧
  (∀ w : CmdWord, cmdAssigned w = true ↔ ∃ i, decode w = .ok i) ∧
  (∀ (w : CmdWord) (i : Instr), decode w = .ok i →
    encode i = w ∨ (encode i = w &&& 0xF00#12 ∧ (i = .nop ∨ i = .ginit ∨ i = .farm ∨ i = .fspanend)))

/-- R50: of the map's six rows exactly the decoded operation's holds of a word, and none of a reserved word. -/
def Obligations.DecoderSelectsTheOneRow : Prop :=
  ∀ w : CmdWord,
    opcodeRows.filter (fun r => rowHolds r w) =
      (match decode w with
        | .ok i => [rowOf i]
        | .error _ => [])

/-- R52: in format C0 all words with the same `op` are the same operation. -/
def Obligations.OperandlessWordsIgnoreData : Prop :=
  ∀ d : Byte,
    decode (0x0#4 ++ d) = .ok .nop ∧ decode (0x1#4 ++ d) = .ok .ginit ∧
    decode (0x3#4 ++ d) = .ok .farm ∧ decode (0x5#4 ++ d) = .ok .fspanend

/-- The words of R55's listing and of the rules' examples, as the spec writes them out. -/
def Obligations.ListedWordsDecode : Prop :=
  decode 0x000#12 = .ok .nop ∧ decode 0x0FF#12 = .ok .nop ∧
  decode 0x100#12 = .ok .ginit ∧ decode 0x1FF#12 = .ok .ginit ∧
  decode 0x231#12 = .ok (.gbyte 0x31#8) ∧ decode 0x300#12 = .ok .farm ∧
  decode 0x408#12 = .ok (.fbyte 0x08#8) ∧ decode 0x4C2#12 = .ok (.fbyte 0xC2#8) ∧
  decode 0x500#12 = .ok .fspanend ∧
  decode 0x600#12 = .error (.reservedOp 0x6#4) ∧ decode 0xFFF#12 = .error (.reservedOp 0xF#4)

/-! ### The operations: results, with everything else unchanged -/

/-- R88: `NOP` is accepted and changes no register. -/
def Obligations.NopChangesNothing : Prop :=
  (∀ d : Byte, decode (0x0#4 ++ d) = .ok .nop) ∧
  ∀ s : State, exec .nop s = .next { s with acc := some true }

/-- R70: `GINIT` clears `gcrc` and nothing else, always accepted, idempotent. -/
def Obligations.GinitStartsANewRange : Prop :=
  (∀ d : Byte, decode (0x1#4 ++ d) = .ok .ginit) ∧
  ∀ s : State,
    exec .ginit s = .next { s with gcrc := 0x0000#16, acc := some true } ∧
    exec .ginit { s with gcrc := 0x0000#16, acc := some true } = .next { s with gcrc := 0x0000#16, acc := some true }

/-- R71: `GBYTE d` appends one byte to the range and changes nothing else, always accepted; with the rule's examples, whose values go
through R62's loop (its shift direction: log entry 7). -/
def Obligations.GbyteAppendsOneByte : Prop :=
  (∀ d : Byte, decode (0x2#4 ++ d) = .ok (.gbyte d)) ∧
  (∀ (s : State) (d : Byte), exec (.gbyte d) s = .next { s with gcrc := crcUpdate s.gcrc d, acc := some true }) ∧
  crcUpdate 0x0000#16 0x00#8 = 0x0000#16 ∧
  crcUpdate 0x0000#16 0x31#8 = 0xD4C1#16 ∧ crcUpdate 0xD4C1#16 0x32#8 = 0x4594#16

/-- R74: `FARM` clears every register of unit F in every phase, leaves `gcrc`, is always accepted and idempotent,
and leaves unit F as `RESET` does. -/
def Obligations.FarmArmsUnitF : Prop :=
  (∀ d : Byte, decode (0x3#4 ++ d) = .ok .farm) ∧
  ∀ s : State, ∃ t,
    exec .farm s = .next t ∧
    t = { s with
      phase := .pre, idx := 0#2, err := .noError, pre := 0x00000000#32, len := 0x00000000#32,
      cnt := 0x00000000#32, ovf := false, fcrc := 0x0000#16, rxck := 0x0000#16, acc := some true } ∧
    exec .farm t = .next t ∧ AgreeOn .f t State.reset ∧ status t = 0x00#8

/-- R75: `FBYTE d` is accepted in `PRE`, `LEN`, `SPAN` and `CK` and refused in `OK` and `ERR`; it never raises `LengthMismatch`
and never touches `gcrc`. -/
def Obligations.FbyteIsAcceptedByPhase : Prop :=
  (∀ d : Byte, decode (0x4#4 ++ d) = .ok (.fbyte d)) ∧
  ∀ (s : State) (d : Byte), ∃ t, exec (.fbyte d) s = .next t ∧
    (t.acc = some true ↔ s.phase = .pre ∨ s.phase = .len ∨ s.phase = .span ∨ s.phase = .ck) ∧
    (t.acc = some false ↔ s.phase = .ok ∨ s.phase = .err) ∧
    (t.err = .fatal .lengthMismatch → s.err = .fatal .lengthMismatch) ∧ t.gcrc = s.gcrc

/-- R76: `FBYTE d` in `PRE`, the preamble detector: the first three bytes, a fourth that completes a zero preamble, a fourth that does
not. Every register not named is unchanged. -/
def Obligations.FbyteInPreamble : Prop :=
  ∀ (s : State) (d : Byte), s.phase = .pre →
    (s.idx ≠ 3#2 →
      exec (.fbyte d) s = .next { s with pre := s.pre.extractLsb' 0 24 ++ d, idx := s.idx + 1#2, acc := some true }) ∧
    (s.idx = 3#2 → s.pre.extractLsb' 0 24 ++ d = 0x00000000#32 →
      exec (.fbyte d) s = .next { s with
        pre := s.pre.extractLsb' 0 24 ++ d, idx := 0#2, phase := .len, acc := some true }) ∧
    (s.idx = 3#2 → s.pre.extractLsb' 0 24 ++ d ≠ 0x00000000#32 →
      exec (.fbyte d) s = .next { s with
        pre := s.pre.extractLsb' 0 24 ++ d, idx := 0#2, phase := .err, err := .fatal .invalidPreamble, acc := some true })

/-- R77: `FBYTE d` in `LEN`, the length-field parser, byte by byte and for the whole field; no value is rejected.
Every register not named is unchanged. -/
def Obligations.FbyteInLength : Prop :=
  (∀ (s : State) (d : Byte), s.phase = .len →
    (s.idx ≠ 3#2 →
      exec (.fbyte d) s = .next { s with len := s.len.extractLsb' 0 24 ++ d, idx := s.idx + 1#2, acc := some true }) ∧
    (s.idx = 3#2 →
      exec (.fbyte d) s = .next { s with
        len := s.len.extractLsb' 0 24 ++ d, idx := 0#2, phase := .span, acc := some true })) ∧
  (∀ (s : State) (b0 b1 b2 b3 : Byte), s.phase = .len → s.idx = 0#2 →
    runMoments ([Instr.fbyte b0, .fbyte b1, .fbyte b2, .fbyte b3].map issue) s =
      .next { s with len := be32 b0 b1 b2 b3, idx := 0#2, phase := .span, acc := some true })

/-- R78: `FBYTE d` in `SPAN`, the checksum accumulator and the span counter; `phase` and `idx` do not change, whatever `len` is.
Every register not named is unchanged. -/
def Obligations.FbyteInSpan : Prop :=
  ∀ (s : State) (d : Byte), s.phase = .span →
    ∃ t, exec (.fbyte d) s = .next t ∧
      t = { s with fcrc := crcUpdate s.fcrc d, cnt := t.cnt, ovf := t.ovf, acc := some true } ∧
      t.cnt.toNat = (s.cnt.toNat + 1) % 2 ^ 32 ∧
      (t.ovf = true ↔ s.ovf = true ∨ s.cnt = 0xFFFFFFFF#32)

/-- R79: `FBYTE d` in `CK`, the checksum comparator: the high byte, then the low byte with the verdict; `fcrc` is not updated.
Every register not named is unchanged. -/
def Obligations.FbyteInChecksum : Prop :=
  ∀ (s : State) (d : Byte), s.phase = .ck →
    (s.idx = 0#2 →
      exec (.fbyte d) s = .next { s with rxck := d ++ s.rxck.extractLsb' 0 8, idx := 1#2, acc := some true }) ∧
    (s.idx = 1#2 → s.rxck.extractLsb' 8 8 ++ d = s.fcrc →
      exec (.fbyte d) s = .next { s with
        rxck := s.rxck.extractLsb' 8 8 ++ d, idx := 0#2, phase := .ok, acc := some true }) ∧
    (s.idx = 1#2 → s.rxck.extractLsb' 8 8 ++ d ≠ s.fcrc →
      exec (.fbyte d) s = .next { s with
        rxck := s.rxck.extractLsb' 8 8 ++ d, idx := 0#2, phase := .err, err := .fatal .checksumMismatch, acc := some true })

/-- R80: `FBYTE d` in `OK` or `ERR` is refused; no register changes. -/
def Obligations.FbyteAfterTheVerdictIsRefused : Prop :=
  ∀ (s : State) (d : Byte), s.phase = .ok ∨ s.phase = .err →
    exec (.fbyte d) s = .next { s with acc := some false }

/-- R81: `FSPANEND` in `SPAN`, the length check on the full count. Every register not named is unchanged. -/
def Obligations.FspanendInSpan : Prop :=
  (∀ d : Byte, decode (0x5#4 ++ d) = .ok .fspanend) ∧
  ∀ s : State, s.phase = .span →
    (s.ovf = false ∧ s.cnt = s.len → exec .fspanend s = .next { s with phase := .ck, idx := 0#2, acc := some true }) ∧
    (s.ovf = true ∨ s.cnt ≠ s.len →
      exec .fspanend s = .next { s with phase := .err, err := .fatal .lengthMismatch, idx := 0#2, acc := some true })

/-- R82: `FSPANEND` in any phase other than `SPAN` is refused; no register changes. -/
def Obligations.FspanendOutsideTheSpanIsRefused : Prop :=
  ∀ s : State, s.phase ≠ .span → exec .fspanend s = .next { s with acc := some false }

/-! ### The checksum function -/

/-- R63: `crc16` is the left fold of `crc_update` from 0x0000 with nothing applied at the end; its check value with every intermediate one.
The nine values are marked by the spec as derived from R62, whose shift direction is the spec's own inference (log entry 7). -/
def Obligations.ChecksumIsALeftFold : Prop :=
  crc16 [] = 0x0000#16 ∧
  (∀ (bytes : List Byte) (b : Byte), crc16 (bytes ++ [b]) = crcUpdate (crc16 bytes) b) ∧
  (List.range 9).map (fun n =>
      crc16 ([0x31#8, 0x32#8, 0x33#8, 0x34#8, 0x35#8, 0x36#8, 0x37#8, 0x38#8, 0x39#8].take (n + 1))) =
    [0xD4C1#16, 0x4594#16, 0xBA04#16, 0x14BA#16, 0xA455#16, 0x29E4#16, 0x9D68#16, 0x3C9D#16, 0xBB3D#16]

/-- R62's loop. Its shift direction is the spec's own inference ("[from general knowledge, not in source]", log entry 7). -/
def Obligations.ChecksumUpdateIsBitSerial : Prop :=
  ∀ (c : Crc) (b : Byte),
    crcUpdate c b =
      (fun t : Crc => if t &&& 0x0001#16 = 0x0001#16 then (t >>> 1) ^^^ 0xA001#16 else t >>> 1)^[8] (c ^^^ b.setWidth 16)

/-- R64 (marked by the spec as derived from R62): the parallel form is `crc_update`. -/
def Obligations.ParallelFormAgrees : Prop :=
  ∀ (c : Crc) (b : Byte), crcParallel c b = crcUpdate c b

/-- R65 (marked by the spec as derived from R62): the table's 256 entries, and the table form is `crc_update`. -/
def Obligations.TableFormAgrees : Prop :=
  crcTable.length = 256 ∧
  (∀ b : Byte, crcTable[b.toNat]? = some (crcUpdate 0x0000#16 b)) ∧
  ∀ (c : Crc) (b : Byte), crcByTable c b = crcUpdate c b

/-- R60 (which the spec supplies from general knowledge, log entry 7): 0xA001 is the bit-reversed 0x8005, and `crc16` is the algorithm
CRC-16/ARC in its left-shifting form with input and output reflected. -/
def Obligations.ChecksumIsTheReflectedAlgorithm : Prop :=
  Config.crcPoly.reverse = 0x8005#16 ∧ ∀ bytes : List Byte, crc16 bytes = crcReflected bytes

/-- R66, first law (marked by the spec as derived from R62): linearity. -/
def Obligations.ChecksumUpdateIsLinear : Prop :=
  (∀ (c1 c2 : Crc) (b1 b2 : Byte), crcUpdate (c1 ^^^ c2) (b1 ^^^ b2) = crcUpdate c1 b1 ^^^ crcUpdate c2 b2) ∧
  (∀ (c : Crc) (b : Byte), crcUpdate c b = crcUpdate (c ^^^ b.setWidth 16) 0x00#8)

/-- R66, second law: leading zero bytes do not change the checksum, and that of an all-zero range is 0x0000. -/
def Obligations.ChecksumIgnoresLeadingZeros : Prop :=
  (∀ (n : Nat) (m : List Byte), crc16 (List.replicate n 0x00#8 ++ m) = crc16 m) ∧
  (∀ n : Nat, crc16 (List.replicate n 0x00#8) = 0x0000#16)

/-- R66, third law: `crc_update` is a bijection of the register for a fixed byte and an injection of the byte for a fixed register. -/
def Obligations.ChecksumUpdateLosesNothing : Prop :=
  (∀ b : Byte, Function.Bijective fun c : Crc => crcUpdate c b) ∧
  (∀ c : Crc, Function.Injective fun b : Byte => crcUpdate c b)

/-- R68 (marked by the spec as derived): running on through two checksum bytes gives 0x0000 exactly where the low byte comes first. -/
def Obligations.ZeroResidueNeedsTheLowByteFirst : Prop :=
  ∀ (m : List Byte) (x y : Byte),
    crc16 (m ++ [x, y]) = 0x0000#16 ↔ x = lowByte (crc16 m) ∧ y = highByte (crc16 m)

/-- R67: the trailer is the high byte then the low byte, which `be16` puts together again; with the rule's example, whose
checksum goes through R62's loop (its shift direction: log entry 7). -/
def Obligations.TrailerIsHighByteFirst : Prop :=
  (∀ s : State, trailerBytes s = [s.gcrc.extractLsb' 8 8, s.gcrc.extractLsb' 0 8]) ∧
  (∀ c : Crc, be16 (highByte c) (lowByte c) = c) ∧
  crc16 [0x08#8, 0x00#8, 0x00#8] = 0xC281#16 ∧ wireBytes16 0xC281#16 = [0xC2#8, 0x81#8]

/-! ### The units over whole sequences -/

/-- R69 (marked by the spec as derived): whatever else is interleaved, `gcrc` is the fold of the bytes given, from 0x0000 after `GINIT`,
from what it held otherwise. -/
def Obligations.GeneratorFoldsItsBytes : Prop :=
  ∀ (ms : List Moment) (s : State), (∀ m ∈ ms, startsRange m = false) →
    (∃ t, runMoments ms s = .next t ∧ t.gcrc = crcFold s.gcrc (gbyteData ms)) ∧
    (∃ t, runMoments (issue .ginit :: ms) s = .next t ∧ t.gcrc = crc16 (gbyteData ms))

/-- R56: `CRC16 b0 ... b(n-1)` leaves `gcrc == crc16(b0..b(n-1))`, and unit F as it was. -/
def Obligations.PseudoChecksumLeavesTheChecksum : Prop :=
  ∀ (bytes : List Byte) (s : State), ∃ t,
    runMoments ((expand (.crc16 bytes)).map issue) s = .next t ∧ t = { s with gcrc := crc16 bytes, acc := some true }

/-- R40 (marked by the spec as derived): an operation of unit G commutes with one of unit F, in the state and in both result bits. -/
def Obligations.UnitsCommute : Prop :=
  ∀ (g f : Instr) (s : State), unitOf g = some .g → unitOf f = some .f →
    ∃ s1 s12 s2 s21,
      exec g s = .next s1 ∧ exec f s1 = .next s12 ∧ exec f s = .next s2 ∧ exec g s2 = .next s21 ∧
      s1.acc = s21.acc ∧ s12.acc = s2.acc ∧ SameRegs s12 s21 ∧ s12.port = s21.port

/-- 10_state.md R14, for whole sequences: from states that agree on unit F, a sequence and the same sequence without its unit G operations
leave unit F the same and accept the same bytes; and unit G likewise without the operations of unit F. -/
def Obligations.UnitsDoNotInterfere : Prop :=
  (∀ (ms : List Moment) (s s' : State), AgreeOn .f s s' →
    ∃ t t', runMoments ms s = .next t ∧ runMoments (ms.filter fun m => !isUnit .g m) s' = .next t' ∧ AgreeOn .f t t' ∧
      acceptedBytes ms s = acceptedBytes (ms.filter fun m => !isUnit .g m) s') ∧
  (∀ (ms : List Moment) (s s' : State), AgreeOn .g s s' →
    ∃ t t', runMoments ms s = .next t ∧ runMoments (ms.filter fun m => !isUnit .f m) s' = .next t' ∧ AgreeOn .g t t')

/-! ### Whole-machine rules -/

/-- 00_scope.md R8 (marked by the spec as derived): every state has a next state under every moment; a command word always gives
one result bit, and one refused leaves the state unchanged. -/
def Obligations.StepIsTotal : Prop :=
  (∀ s : State, ∃ t, step s = .next t) ∧
  ∀ (s : State) (w : CmdWord), ∃ t b,
    execMoment { reset := false, cmd := some w } s = .next t ∧ t.acc = some b ∧ t.port = s.port ∧
    (b = false → t = { s with acc := some false })

/-- R13: ten registers, all zero after reset, each written only by the operations its row names, in every state. -/
def Obligations.RegistersAreWrittenOnlyByTheirWriters : Prop :=
  allRegs.length = 10 ∧ allRegs.Nodup ∧ (∀ r, r ∈ allRegs) ∧
  (∀ r, readReg State.reset r = 0) ∧
  ∀ (s : State) (m : Moment), ∃ t, execMoment m s = .next t ∧
    ∀ r, readReg t r ≠ readReg s r → mayWrite r m s.phase = true

/-- R20: `ovf` is set only by the span byte accepted at `cnt == 0xFFFFFFFF`, cleared only by `FARM` and `RESET`, and read only by `FSPANEND`. -/
def Obligations.OverflowIsSticky : Prop :=
  (∀ (s : State) (m : Moment), ∃ t, execMoment m s = .next t ∧
    (s.ovf = false → (t.ovf = true ↔ (∃ d, instrOf m = some (.fbyte d)) ∧ s.phase = .span ∧ s.cnt = 0xFFFFFFFF#32)) ∧
    (s.ovf = true → (t.ovf = false ↔ arms m = true))) ∧
  (∀ (s : State) (m : Moment), instrOf m ≠ some .fspanend →
    ∃ t v, execMoment m s = .next t ∧ execMoment m { s with ovf := !s.ovf } = .next { t with ovf := v })

/-- 60_exceptions.md R92: the three errors, each raised only by its operation in its phase on its condition, with the registers it
leaves readable; `raise` sets `phase`, `err`, `idx` (R96) and the raising operation is accepted. The four preamble bytes are the three
that `pre` held and the operand, the received checksum is the byte that `rxck` held and the operand; the bytes counted are the span's. -/
def Obligations.ErrorsAreRaisedOnlyAsListed : Prop :=
  errorCode .invalidPreamble = 1#2 ∧ errorCode .lengthMismatch = 2#2 ∧ errorCode .checksumMismatch = 3#2 ∧
  ∀ (s : State) (m : Moment), Invariants s → s.err = .noError →
    ∃ t, execMoment m s = .next t ∧
      (t.err ≠ .noError → t.phase = .err ∧ t.idx = 0#2 ∧ t.acc = some true ∧ t.gcrc = s.gcrc) ∧
      (t.err = .fatal .invalidPreamble ↔
        ∃ d, instrOf m = some (.fbyte d) ∧ s.phase = .pre ∧ s.idx = 3#2 ∧ s.pre.extractLsb' 0 24 ++ d ≠ 0x00000000#32) ∧
      (t.err = .fatal .invalidPreamble →
        (∃ d, instrOf m = some (.fbyte d) ∧ t.pre = s.pre.extractLsb' 0 24 ++ d) ∧ t.pre ≠ 0x00000000#32 ∧
        t.len = 0x00000000#32 ∧ t.cnt = 0x00000000#32 ∧ t.ovf = false ∧ t.fcrc = 0x0000#16 ∧ t.rxck = 0x0000#16) ∧
      (t.err = .fatal .lengthMismatch ↔
        instrOf m = some .fspanend ∧ s.phase = .span ∧ (s.ovf = true ∨ s.cnt ≠ s.len)) ∧
      (t.err = .fatal .lengthMismatch →
        t.len = s.len ∧ t.cnt = s.cnt ∧ t.ovf = s.ovf ∧ t.fcrc = s.fcrc ∧ t.rxck = 0x0000#16 ∧
        ∃ span, CountsSpan s span ∧ CountsSpan t span) ∧
      (t.err = .fatal .checksumMismatch ↔
        ∃ d, instrOf m = some (.fbyte d) ∧ s.phase = .ck ∧ s.idx = 1#2 ∧ s.rxck.extractLsb' 8 8 ++ d ≠ s.fcrc) ∧
      (t.err = .fatal .checksumMismatch →
        (∃ d, instrOf m = some (.fbyte d) ∧ t.rxck = s.rxck.extractLsb' 8 8 ++ d) ∧ t.rxck ≠ t.fcrc ∧
        t.fcrc = s.fcrc ∧ t.len = t.cnt ∧
        ∃ span, CountsSpan s span ∧ CountsSpan t span ∧ span.length = t.len.toNat)

/-- R92's last column with R93 to R95, over any sequence of moments since the arm: in `ERR` the registers show the bytes the block
accepted, which are four, `8 + e` and `10 + len` of them. -/
def Obligations.ErrorsLeaveTheFrameReadable : Prop :=
  ∀ (ms : List Moment) (s : State), Armed s → (∀ m ∈ ms, arms m = false) →
    ∃ t, runMoments ms s = .next t ∧
      (t.err = .fatal .invalidPreamble → acceptedBytes ms s = wireBytes32 t.pre ∧ t.pre ≠ 0x00000000#32) ∧
      (t.err = .fatal .lengthMismatch → ∃ span, CountsSpan t span ∧ span.length ≠ t.len.toNat ∧
        acceptedBytes ms s = [0x00#8, 0x00#8, 0x00#8, 0x00#8] ++ wireBytes32 t.len ++ span) ∧
      (t.err = .fatal .checksumMismatch → ∃ span, CountsSpan t span ∧ span.length = t.len.toNat ∧ t.rxck ≠ crc16 span ∧
        acceptedBytes ms s = [0x00#8, 0x00#8, 0x00#8, 0x00#8] ++ wireBytes32 t.len ++ span ++ wireBytes16 t.rxck)

/-- R99, R100 and R115, over any sequence that does not arm: after the verdict every register of unit F is frozen, no byte is accepted,
and an error once recorded stays the only one. -/
def Obligations.VerdictIsFrozenUntilTheNextArm : Prop :=
  ∀ (ms : List Moment) (s : State), Final s → (∀ m ∈ ms, arms m = false) →
    ∃ t, runMoments ms s = .next t ∧ AgreeOn .f s t ∧ acceptedBytes ms s = []

/-- R21: the position `(phase, idx)` never goes backwards except to `(PRE, 0)` by `FARM` or `RESET`. -/
def Obligations.PositionNeverGoesBack : Prop :=
  ∀ (s : State) (m : Moment), Invariants s →
    ∃ t, execMoment m s = .next t ∧
      (arms m = false → positionRank s ≤ positionRank t) ∧
      (arms m = true → t.phase = .pre ∧ t.idx = 0#2)

/-- R25: the three outputs as functions of `phase`, exactly one of them 1 at any time. -/
def Obligations.ExactlyOneOutputHolds : Prop :=
  ∀ s : State,
    (okOut s = true ↔ s.phase = .ok) ∧ (failOut s = true ↔ s.phase = .err) ∧
    (incompleteOut s = true ↔ s.phase = .pre ∨ s.phase = .len ∨ s.phase = .span ∨ s.phase = .ck) ∧
    [okOut s, failOut s, incompleteOut s].count true = 1

/-- R26: the fields of `STATUS`, and its legal values in the states of R29. -/
def Obligations.StatusPacksTheSmallRegisters : Prop :=
  (∀ s : State,
    (status s).extractLsb' 0 3 = readReg s .phase ∧ (status s).extractLsb' 3 2 = readReg s .idx ∧
    (status s).extractLsb' 5 2 = readReg s .err ∧ (status s).getLsbD 7 = s.ovf) ∧
  (∀ s : State, Invariants s →
    (status s).extractLsb' 0 3 ≤ 5#3 ∧ ((status s).extractLsb' 5 2 ≠ 0#2 ↔ (status s).extractLsb' 0 3 = 5#3)) ∧
  status State.reset = 0x00#8 ∧
  (∀ s : State, Invariants s →
    (s.phase = .ok → status s = 0x04#8) ∧ (s.err = .fatal .checksumMismatch → status s = 0x65#8) ∧
    (s.err = .fatal .lengthMismatch → s.ovf = false → status s = 0x45#8) ∧
    (s.err = .fatal .invalidPreamble → status s = 0x25#8))

/-- R32 with R44: preamble, length and checksum are assembled big-endian from their bytes. -/
def Obligations.FieldsAreBigEndian : Prop :=
  (∀ b0 b1 b2 b3 : Byte,
    (be32 b0 b1 b2 b3).toNat = b0.toNat * 2 ^ 24 + b1.toNat * 2 ^ 16 + b2.toNat * 2 ^ 8 + b3.toNat) ∧
  (∀ b0 b1 : Byte, (be16 b0 b1).toNat = b0.toNat * 2 ^ 8 + b1.toNat) ∧
  (∀ (s : State) (b0 b1 b2 b3 : Byte), Armed s →
    ∃ t, runMoments ([Instr.fbyte b0, .fbyte b1, .fbyte b2, .fbyte b3].map issue) s = .next t ∧ t.pre = be32 b0 b1 b2 b3) ∧
  (∀ (s : State) (b4 b5 b6 b7 : Byte), Armed s →
    ∃ t, runMoments ([Instr.fbyte 0x00#8, .fbyte 0x00#8, .fbyte 0x00#8, .fbyte 0x00#8,
      .fbyte b4, .fbyte b5, .fbyte b6, .fbyte b7].map issue) s = .next t ∧ t.len = be32 b4 b5 b6 b7) ∧
  (∀ (s : State) (b0 b1 : Byte), s.phase = .ck → s.idx = 0#2 →
    ∃ t, runMoments ([Instr.fbyte b0, .fbyte b1].map issue) s = .next t ∧ t.rxck = be16 b0 b1)

/-! ### Invariant, verdict, soundness -/

/-- The invariants of R29 hold at reset. -/
def Obligations.InvariantsHoldAtReset : Prop := Invariants State.reset

/-- R29 (marked by the spec as derived): every step keeps the invariants, whatever is presented. -/
def Obligations.EveryStepKeepsTheInvariants : Prop :=
  ∀ s t : State, Invariants s → step s = .next t → Invariants t

/-- R84 (marked by the spec as derived): for every byte sequence and every placement of the span end, from every state, `FRAME` leads to the state of
the table's row, with `gcrc` untouched, and accepts exactly the bytes the table says. -/
def Obligations.VerdictInClosedForm : Prop :=
  ∀ (bytes : List Byte) (e : Option Nat) (s : State), ∃ t,
    runMoments ((frameOps bytes e).map issue) s = .next t ∧
    t = { closedForm bytes e s with acc := t.acc } ∧
    fbyteResults ((frameOps bytes e).map issue) s =
      (List.range bytes.length).map fun k => some (decide (k < consumed bytes e))

/-- R85 (marked by the spec as derived): incremental intake equals re-parsing. Unit F is the same after a prefix and then the rest as after
`FARM` from any other state and a replay of the whole. -/
def Obligations.IncrementalIntakeEqualsReparsing : Prop :=
  ∀ (first second : List Instr) (s s' : State), ∃ t u u',
    runMoments ((Instr.farm :: first).map issue) s = .next t ∧
    runMoments (second.map issue) t = .next u ∧
    runMoments ((Instr.farm :: (first ++ second)).map issue) s' = .next u' ∧
    AgreeOn .f u u'

/-- R86 with R21 (R86 is marked by the spec as derived): the number of bytes accepted since the arm is what the registers say,
as long as fewer than 2^33 were (R19); in the phases of R21 it is the frame offset. -/
def Obligations.BytesAcceptedAreReadable : Prop :=
  (∀ (ms : List Moment) (s : State), Armed s → (∀ m ∈ ms, arms m = false) → (acceptedBytes ms s).length < 2 ^ 33 →
    ∃ t, runMoments ms s = .next t ∧ bytesAccepted t = some (acceptedBytes ms s).length) ∧
  (∀ (s : State) (n : Nat), frameOffset s = some n → bytesAccepted s = some n)

/-- 20_memory.md R37: the next byte of a frame is taken in the phase of the field at its offset, and none after the last. -/
def Obligations.BytesAreTakenInTheirFields : Prop :=
  ∀ (span : List Byte) (k : Nat) (s : State), span.length < 2 ^ 32 → k ≤ (envelope span).length →
    ∃ t, runMoments ((frameOps ((envelope span).take k) (some span.length)).map issue) s = .next t ∧
      (takenIn (fieldAt span.length k) = some t.phase ∨ takenIn (fieldAt span.length k) = none ∧ t.phase = .ok)

/-- The round trip of 95_test_vectors.md S2 by R67, R69, R73: the trailer unit G computes for a span makes a frame that unit F accepts whole. -/
def Obligations.EncodedFrameValidates : Prop :=
  ∀ (span : List Byte) (s : State), span.length < 2 ^ 32 →
    ∃ g t,
      runMoments ((expand (.crc16 span)).map issue) s = .next g ∧
      envelope span = [0x00#8, 0x00#8, 0x00#8, 0x00#8] ++ wireBytes32 (BitVec.ofNat 32 span.length) ++ span ++ trailerBytes g ∧
      runMoments ((frameOps (envelope span) (some span.length)).map issue) g = .next t ∧
      okOut t = true ∧ t.fcrc = g.gcrc ∧ t.gcrc = g.gcrc ∧
      fbyteResults ((frameOps (envelope span) (some span.length)).map issue) g =
        List.replicate (10 + span.length) (some true)

/-- R87 (marked by the spec as derived): `OK` means the envelope is consistent. Over any sequence of moments that does not re-arm, if the block ends
in `OK`, the bytes it accepted are a frame of R43: zero preamble, the length of the span, the span, the checksum of the span. -/
def Obligations.OkMeansTheEnvelopeIsConsistent : Prop :=
  ∀ (ms : List Moment) (s t : State), Armed s → (∀ m ∈ ms, arms m = false) → runMoments ms s = .next t → okOut t = true →
    ∃ span : List Byte, span.length < 2 ^ 32 ∧ acceptedBytes ms s = envelope span ∧ t.len.toNat = span.length

/-! ### The textual form -/

/-- R55: the text of every operation reads back as that operation, also before a comment. How a line is parted is the model's (log entry 12). -/
def Obligations.TextReadsBack : Prop :=
  ∀ (i : Instr) (comment : List Char),
    parseLine (render i) = .ok (some i) ∧ parseLine (render i ++ ' ' :: ';' :: comment) = .ok (some i)
end

