-- ==== Sys2Proof/Laws/Crc.lean ====
section
/-! SUPPORT. The checksum function: its fold, and the linearity of one turn of its loop. -/

namespace Sys2Proof.Machine

@[simp] theorem crcFold_nil (c : Crc) : crcFold c [] = c := rfl

@[simp] theorem crcFold_cons (c : Crc) (b : Byte) (bs : List Byte) :
    crcFold c (b :: bs) = crcFold (crcUpdate c b) bs := rfl

theorem crcFold_append (c : Crc) (as bs : List Byte) :
    crcFold c (as ++ bs) = crcFold (crcFold c as) bs := by
  simp [crcFold, List.foldl_append]

theorem crcFold_snoc (c : Crc) (as : List Byte) (b : Byte) :
    crcFold c (as ++ [b]) = crcUpdate (crcFold c as) b := by
  simp [crcFold_append]

theorem crcBits_add (n k : Nat) (t : Crc) : crcBits (n + k) t = crcBits k (crcBits n t) := by
  induction n generalizing t with
  | zero => simp [crcBits]
  | succ n ih => rw [Nat.succ_add]; simp only [crcBits, ih]

theorem crcBit_xor (a b : Crc) : crcBit (a ^^^ b) = crcBit a ^^^ crcBit b := by
  simp only [crcBit, BitVec.getLsbD_xor]
  generalize Config.crcPoly = p
  cases a.getLsbD 0 <;> cases b.getLsbD 0 <;> simp [BitVec.ushiftRight_xor_distrib] <;>
    ext i hi <;> simp only [BitVec.getElem_xor] <;>
    cases (a >>> 1)[i] <;> cases (b >>> 1)[i] <;> cases p[i] <;> rfl

theorem crcBits_xor (n : Nat) (a b : Crc) : crcBits n (a ^^^ b) = crcBits n a ^^^ crcBits n b := by
  induction n generalizing a b with
  | zero => rfl
  | succ n ih => simp only [crcBits, crcBit_xor, ih]

/-- A turn of the loop is undone: the top bit of the result tells whether the polynomial was added. -/
theorem crcBit_injective : Function.Injective crcBit := by
  intro a b h
  have key : ∀ c : Crc, crcBit c = 0#16 → c = 0#16 := by
    intro c hc
    simp only [crcBit] at hc
    split at hc <;> rename_i h0
    · have := congrArg (fun t : Crc => t.getLsbD 15) hc
      simp [Config.crcPoly] at this
    · ext i hi
      rcases i with _ | i
      · simpa using h0
      · have := congrArg (fun t : Crc => t.getLsbD i) hc
        simp at this
        rw [BitVec.getLsbD_eq_getElem (by omega)] at this
        simpa [Nat.add_comm] using this
  have hx : crcBit (a ^^^ b) = 0#16 := by rw [crcBit_xor, h, BitVec.xor_self]
  have := key _ hx
  exact BitVec.xor_eq_zero_iff.mp this

end Sys2Proof.Machine
end

