-- ==== Sys2Proof/Laws/Decode.lean ====
section
/-! SUPPORT. The two fields of a command word put together from them, and what the decoder answers to each value of `op`. -/

namespace Sys2Proof

@[simp] theorem cmdOp_append (op : BitVec 4) (d : Byte) : cmdOp (op ++ d) = op := by
  apply BitVec.eq_of_getLsbD_eq
  intro i hi
  have h : (op ++ d).getLsbD (8 + i) = _ := BitVec.getLsbD_append (x := op) (y := d)
  have h' : ¬ 8 + i < 8 := by omega
  simp only [cmdOp, BitVec.getLsbD_extractLsb', hi, decide_true, Bool.true_and]
  refine h.trans ?_
  simp

@[simp] theorem cmdData_append (op : BitVec 4) (d : Byte) : cmdData (op ++ d) = d := by
  apply BitVec.eq_of_getLsbD_eq
  intro i hi
  have h : (op ++ d).getLsbD i = _ := BitVec.getLsbD_append (x := op) (y := d)
  simp only [cmdData, BitVec.getLsbD_extractLsb', hi, decide_true, Bool.true_and, Nat.zero_add]
  refine h.trans ?_
  simp [hi]

/-- A command word is its `op` followed by its `data`. -/
theorem cmdWord_eq (w : CmdWord) : cmdOp w ++ cmdData w = w := by
  apply BitVec.eq_of_getLsbD_eq
  intro i hi
  have h : (cmdOp w ++ cmdData w).getLsbD i = _ := BitVec.getLsbD_append (x := cmdOp w) (y := cmdData w)
  refine h.trans ?_
  split
  · simp [cmdData, *]
  · have h : 8 + (i - 8) = i := by omega
    have h' : i - 8 < 4 := by omega
    simp [cmdOp, h, h']

/-- A command word's `op` as a number: `cmd` without its low eight bits. -/
theorem cmdOp_toNat (w : CmdWord) : (cmdOp w).toNat = w.toNat / 256 := by
  have := w.isLt
  simp [cmdOp, BitVec.extractLsb', Nat.shiftRight_eq_div_pow]; omega

/-- The decoder's answer on a word written as `op` followed by `data`. -/
theorem decode_append (op : BitVec 4) (d : Byte) :
    decode (op ++ d) =
      (match op.toNat with
        | 0 => .ok .nop
        | 1 => .ok .ginit
        | 2 => .ok (.gbyte d)
        | 3 => .ok .farm
        | 4 => .ok (.fbyte d)
        | 5 => .ok .fspanend
        | _ => .error (.reservedOp op)) := by
  simp only [decode, cmdOp_append, cmdData_append] <;> rfl

end Sys2Proof
end

