-- ==== Sys2Proof/Laws/State.lean ====
section
/-! SUPPORT. One lemma per field for every update of the state that an operation makes, so that no later proof unfolds one. -/

namespace Sys2Proof.Machine

@[simp] theorem accept_gcrc (s : State) : (accept s).gcrc = s.gcrc := rfl
@[simp] theorem accept_phase (s : State) : (accept s).phase = s.phase := rfl
@[simp] theorem accept_idx (s : State) : (accept s).idx = s.idx := rfl
@[simp] theorem accept_pre (s : State) : (accept s).pre = s.pre := rfl
@[simp] theorem accept_len (s : State) : (accept s).len = s.len := rfl
@[simp] theorem accept_cnt (s : State) : (accept s).cnt = s.cnt := rfl
@[simp] theorem accept_ovf (s : State) : (accept s).ovf = s.ovf := rfl
@[simp] theorem accept_fcrc (s : State) : (accept s).fcrc = s.fcrc := rfl
@[simp] theorem accept_rxck (s : State) : (accept s).rxck = s.rxck := rfl
@[simp] theorem accept_err (s : State) : (accept s).err = s.err := rfl
@[simp] theorem accept_acc (s : State) : (accept s).acc = some true := rfl
@[simp] theorem accept_port (s : State) : (accept s).port = s.port := rfl

@[simp] theorem refuse_gcrc (s : State) : (refuse s).gcrc = s.gcrc := rfl
@[simp] theorem refuse_phase (s : State) : (refuse s).phase = s.phase := rfl
@[simp] theorem refuse_idx (s : State) : (refuse s).idx = s.idx := rfl
@[simp] theorem refuse_pre (s : State) : (refuse s).pre = s.pre := rfl
@[simp] theorem refuse_len (s : State) : (refuse s).len = s.len := rfl
@[simp] theorem refuse_cnt (s : State) : (refuse s).cnt = s.cnt := rfl
@[simp] theorem refuse_ovf (s : State) : (refuse s).ovf = s.ovf := rfl
@[simp] theorem refuse_fcrc (s : State) : (refuse s).fcrc = s.fcrc := rfl
@[simp] theorem refuse_rxck (s : State) : (refuse s).rxck = s.rxck := rfl
@[simp] theorem refuse_err (s : State) : (refuse s).err = s.err := rfl
@[simp] theorem refuse_acc (s : State) : (refuse s).acc = some false := rfl
@[simp] theorem refuse_port (s : State) : (refuse s).port = s.port := rfl

@[simp] theorem idle_gcrc (s : State) : (idle s).gcrc = s.gcrc := rfl
@[simp] theorem idle_phase (s : State) : (idle s).phase = s.phase := rfl
@[simp] theorem idle_idx (s : State) : (idle s).idx = s.idx := rfl
@[simp] theorem idle_pre (s : State) : (idle s).pre = s.pre := rfl
@[simp] theorem idle_len (s : State) : (idle s).len = s.len := rfl
@[simp] theorem idle_cnt (s : State) : (idle s).cnt = s.cnt := rfl
@[simp] theorem idle_ovf (s : State) : (idle s).ovf = s.ovf := rfl
@[simp] theorem idle_fcrc (s : State) : (idle s).fcrc = s.fcrc := rfl
@[simp] theorem idle_rxck (s : State) : (idle s).rxck = s.rxck := rfl
@[simp] theorem idle_err (s : State) : (idle s).err = s.err := rfl
@[simp] theorem idle_acc (s : State) : (idle s).acc = none := rfl
@[simp] theorem idle_port (s : State) : (idle s).port = s.port := rfl

@[simp] theorem raiseError_gcrc (e : FatalError) (s : State) : (raiseError e s).gcrc = s.gcrc := rfl
@[simp] theorem raiseError_phase (e : FatalError) (s : State) : (raiseError e s).phase = .err := rfl
@[simp] theorem raiseError_idx (e : FatalError) (s : State) : (raiseError e s).idx = 0#2 := rfl
@[simp] theorem raiseError_pre (e : FatalError) (s : State) : (raiseError e s).pre = s.pre := rfl
@[simp] theorem raiseError_len (e : FatalError) (s : State) : (raiseError e s).len = s.len := rfl
@[simp] theorem raiseError_cnt (e : FatalError) (s : State) : (raiseError e s).cnt = s.cnt := rfl
@[simp] theorem raiseError_ovf (e : FatalError) (s : State) : (raiseError e s).ovf = s.ovf := rfl
@[simp] theorem raiseError_fcrc (e : FatalError) (s : State) : (raiseError e s).fcrc = s.fcrc := rfl
@[simp] theorem raiseError_rxck (e : FatalError) (s : State) : (raiseError e s).rxck = s.rxck := rfl
@[simp] theorem raiseError_err (e : FatalError) (s : State) : (raiseError e s).err = .fatal e := rfl
@[simp] theorem raiseError_acc (e : FatalError) (s : State) : (raiseError e s).acc = s.acc := rfl
@[simp] theorem raiseError_port (e : FatalError) (s : State) : (raiseError e s).port = s.port := rfl

@[simp] theorem armF_gcrc (s : State) : (armF s).gcrc = s.gcrc := rfl
@[simp] theorem armF_phase (s : State) : (armF s).phase = .pre := rfl
@[simp] theorem armF_idx (s : State) : (armF s).idx = 0#2 := rfl
@[simp] theorem armF_pre (s : State) : (armF s).pre = 0x00000000#32 := rfl
@[simp] theorem armF_len (s : State) : (armF s).len = 0x00000000#32 := rfl
@[simp] theorem armF_cnt (s : State) : (armF s).cnt = 0x00000000#32 := rfl
@[simp] theorem armF_ovf (s : State) : (armF s).ovf = false := rfl
@[simp] theorem armF_fcrc (s : State) : (armF s).fcrc = Config.crcInit := rfl
@[simp] theorem armF_rxck (s : State) : (armF s).rxck = 0x0000#16 := rfl
@[simp] theorem armF_err (s : State) : (armF s).err = .noError := rfl
@[simp] theorem armF_acc (s : State) : (armF s).acc = s.acc := rfl
@[simp] theorem armF_port (s : State) : (armF s).port = s.port := rfl

@[simp] theorem resetAll_gcrc (s : State) : (resetAll s).gcrc = 0x0000#16 := rfl
@[simp] theorem resetAll_phase (s : State) : (resetAll s).phase = .pre := rfl
@[simp] theorem resetAll_idx (s : State) : (resetAll s).idx = 0#2 := rfl
@[simp] theorem resetAll_pre (s : State) : (resetAll s).pre = 0x00000000#32 := rfl
@[simp] theorem resetAll_len (s : State) : (resetAll s).len = 0x00000000#32 := rfl
@[simp] theorem resetAll_cnt (s : State) : (resetAll s).cnt = 0x00000000#32 := rfl
@[simp] theorem resetAll_ovf (s : State) : (resetAll s).ovf = false := rfl
@[simp] theorem resetAll_fcrc (s : State) : (resetAll s).fcrc = 0x0000#16 := rfl
@[simp] theorem resetAll_rxck (s : State) : (resetAll s).rxck = 0x0000#16 := rfl
@[simp] theorem resetAll_err (s : State) : (resetAll s).err = .noError := rfl
@[simp] theorem resetAll_acc (s : State) : (resetAll s).acc = none := rfl
@[simp] theorem resetAll_port (s : State) : (resetAll s).port = s.port := rfl

@[simp] theorem afterMoment_gcrc (s : State) : (afterMoment s).gcrc = s.gcrc := rfl
@[simp] theorem afterMoment_phase (s : State) : (afterMoment s).phase = s.phase := rfl
@[simp] theorem afterMoment_idx (s : State) : (afterMoment s).idx = s.idx := rfl
@[simp] theorem afterMoment_pre (s : State) : (afterMoment s).pre = s.pre := rfl
@[simp] theorem afterMoment_len (s : State) : (afterMoment s).len = s.len := rfl
@[simp] theorem afterMoment_cnt (s : State) : (afterMoment s).cnt = s.cnt := rfl
@[simp] theorem afterMoment_ovf (s : State) : (afterMoment s).ovf = s.ovf := rfl
@[simp] theorem afterMoment_fcrc (s : State) : (afterMoment s).fcrc = s.fcrc := rfl
@[simp] theorem afterMoment_rxck (s : State) : (afterMoment s).rxck = s.rxck := rfl
@[simp] theorem afterMoment_err (s : State) : (afterMoment s).err = s.err := rfl
@[simp] theorem afterMoment_acc (s : State) : (afterMoment s).acc = s.acc := rfl
@[simp] theorem afterMoment_port (s : State) : (afterMoment s).port = s.port.tail := rfl

@[simp] theorem withFetchWord_gcrc (s : State) (nbits w : Nat) : (s.withFetchWord nbits w).gcrc = s.gcrc := rfl
@[simp] theorem withFetchWord_phase (s : State) (nbits w : Nat) : (s.withFetchWord nbits w).phase = s.phase := rfl
@[simp] theorem withFetchWord_idx (s : State) (nbits w : Nat) : (s.withFetchWord nbits w).idx = s.idx := rfl
@[simp] theorem withFetchWord_pre (s : State) (nbits w : Nat) : (s.withFetchWord nbits w).pre = s.pre := rfl
@[simp] theorem withFetchWord_len (s : State) (nbits w : Nat) : (s.withFetchWord nbits w).len = s.len := rfl
@[simp] theorem withFetchWord_cnt (s : State) (nbits w : Nat) : (s.withFetchWord nbits w).cnt = s.cnt := rfl
@[simp] theorem withFetchWord_ovf (s : State) (nbits w : Nat) : (s.withFetchWord nbits w).ovf = s.ovf := rfl
@[simp] theorem withFetchWord_fcrc (s : State) (nbits w : Nat) : (s.withFetchWord nbits w).fcrc = s.fcrc := rfl
@[simp] theorem withFetchWord_rxck (s : State) (nbits w : Nat) : (s.withFetchWord nbits w).rxck = s.rxck := rfl
@[simp] theorem withFetchWord_err (s : State) (nbits w : Nat) : (s.withFetchWord nbits w).err = s.err := rfl
@[simp] theorem withFetchWord_acc (s : State) (nbits w : Nat) : (s.withFetchWord nbits w).acc = s.acc := rfl
@[simp] theorem withFetchWord_port (s : State) (nbits w : Nat) : (s.withFetchWord nbits w).port = tableMoment nbits w :: s.port := rfl

@[simp] theorem reset_gcrc : State.reset.gcrc = 0x0000#16 := rfl
@[simp] theorem reset_phase : State.reset.phase = .pre := rfl
@[simp] theorem reset_idx : State.reset.idx = 0#2 := rfl
@[simp] theorem reset_pre : State.reset.pre = 0x00000000#32 := rfl
@[simp] theorem reset_len : State.reset.len = 0x00000000#32 := rfl
@[simp] theorem reset_cnt : State.reset.cnt = 0x00000000#32 := rfl
@[simp] theorem reset_ovf : State.reset.ovf = false := rfl
@[simp] theorem reset_fcrc : State.reset.fcrc = 0x0000#16 := rfl
@[simp] theorem reset_rxck : State.reset.rxck = 0x0000#16 := rfl
@[simp] theorem reset_err : State.reset.err = .noError := rfl
@[simp] theorem reset_acc : State.reset.acc = none := rfl
@[simp] theorem reset_port : State.reset.port = [] := rfl

end Sys2Proof.Machine
end

