-- ==== Sys2Proof/Laws/Exec.lean ====
section
/-! SUPPORT. Everything one operation, one event and one moment can do, said once: later proofs cite these and do not unfold the meanings. -/

namespace Sys2Proof.Machine

/-- What `FBYTE d` in `PRE` can do (R76). -/
theorem fbytePre_cases (d : Byte) (s : State) :
    (s.idx ≠ 3#2 ∧ fbytePre d s = { s with pre := shiftIn s.pre d, idx := s.idx + 1#2 }) ∨
    (s.idx = 3#2 ∧ shiftIn s.pre d = 0#32 ∧ fbytePre d s = { s with pre := shiftIn s.pre d, idx := 0#2, phase := .len }) ∨
    (s.idx = 3#2 ∧ shiftIn s.pre d ≠ 0#32 ∧
      fbytePre d s = { s with pre := shiftIn s.pre d, idx := 0#2, phase := .err, err := .fatal .invalidPreamble }) := by
  by_cases h : s.idx = 3#2
  · by_cases hp : shiftIn s.pre d = 0#32
    · exact .inr (.inl ⟨h, hp, by simp [fbytePre, h, hp, Config.lastFieldIdx, preambleHolds, Config.preambleValue]⟩)
    · exact .inr (.inr ⟨h, hp, by
        simp [fbytePre, h, hp, Config.lastFieldIdx, preambleHolds, Config.preambleValue, raiseError]⟩)
  · exact .inl ⟨h, by simp [fbytePre, h, Config.lastFieldIdx]⟩

/-- What `FBYTE d` in `LEN` can do (R77). -/
theorem fbyteLen_cases (d : Byte) (s : State) :
    (s.idx ≠ 3#2 ∧ fbyteLen d s = { s with len := shiftIn s.len d, idx := s.idx + 1#2 }) ∨
    (s.idx = 3#2 ∧ fbyteLen d s = { s with len := shiftIn s.len d, idx := 0#2, phase := .span }) := by
  by_cases h : s.idx = 3#2
  · exact .inr ⟨h, by simp [fbyteLen, h, Config.lastFieldIdx]⟩
  · exact .inl ⟨h, by simp [fbyteLen, h, Config.lastFieldIdx]⟩

/-- What `FBYTE d` in `CK` can do (R79). -/
theorem fbyteCk_cases (d : Byte) (s : State) :
    (s.idx = 0#2 ∧ fbyteCk d s = { s with rxck := withHighByte s.rxck d, idx := 1#2 }) ∨
    (s.idx ≠ 0#2 ∧ withLowByte s.rxck d = s.fcrc ∧
      fbyteCk d s = { s with rxck := withLowByte s.rxck d, idx := 0#2, phase := .ok }) ∨
    (s.idx ≠ 0#2 ∧ withLowByte s.rxck d ≠ s.fcrc ∧
      fbyteCk d s = { s with rxck := withLowByte s.rxck d, idx := 0#2, phase := .err, err := .fatal .checksumMismatch }) := by
  by_cases h : s.idx = 0#2
  · exact .inl ⟨h, by simp [fbyteCk, h]⟩
  · by_cases hr : withLowByte s.rxck d = s.fcrc
    · exact .inr (.inl ⟨h, hr, by simp [fbyteCk, h, hr, checksumHolds]⟩)
    · exact .inr (.inr ⟨h, hr, by simp [fbyteCk, h, hr, checksumHolds, raiseError]⟩)

/-- What `FSPANEND` in `SPAN` can do (R81). -/
theorem spanEnd_cases (s : State) :
    (s.ovf = false ∧ s.cnt = s.len ∧ spanEnd s = { s with phase := .ck, idx := 0#2 }) ∨
    ((s.ovf = true ∨ s.cnt ≠ s.len) ∧
      spanEnd s = { s with phase := .err, err := .fatal .lengthMismatch, idx := 0#2 }) := by
  by_cases h : s.ovf = false ∧ s.cnt = s.len
  · exact .inl ⟨h.1, h.2, by simp [spanEnd, lengthHolds, h.1, h.2]⟩
  · have h' : s.ovf = true ∨ s.cnt ≠ s.len := by
      cases ho : s.ovf <;> simp_all
    refine .inr ⟨h', ?_⟩
    rcases h' with h' | h' <;> simp [spanEnd, lengthHolds, h', raiseError]

/-- The meaning an operation has, phase by phase: `exec` says nothing else. -/
theorem exec_fbyte_phase (d : Byte) (s : State) :
    (s.phase = .pre ∧ exec (.fbyte d) s = .next (accept (fbytePre d s))) ∨
    (s.phase = .len ∧ exec (.fbyte d) s = .next (accept (fbyteLen d s))) ∨
    (s.phase = .span ∧ exec (.fbyte d) s = .next (accept (fbyteSpan d s))) ∨
    (s.phase = .ck ∧ exec (.fbyte d) s = .next (accept (fbyteCk d s))) ∨
    ((s.phase = .ok ∨ s.phase = .err) ∧ exec (.fbyte d) s = .next (refuse s)) := by
  cases h : s.phase <;> simp [exec, execFbyte, h]

/-- `FSPANEND`, in `SPAN` and elsewhere. -/
theorem exec_fspanend_phase (s : State) :
    (s.phase = .span ∧ exec .fspanend s = .next (accept (spanEnd s))) ∨
    (s.phase ≠ .span ∧ exec .fspanend s = .next (refuse s)) := by
  cases h : s.phase <;> simp [exec, execFspanend, h]

/-- Every operation answers a next state. -/
theorem exec_next (i : Instr) (s : State) : ∃ t, exec i s = .next t := by
  cases i with
  | nop => exact ⟨_, rfl⟩
  | ginit => exact ⟨_, rfl⟩
  | gbyte d => exact ⟨_, rfl⟩
  | farm => exact ⟨_, rfl⟩
  | fbyte d =>
    rcases exec_fbyte_phase d s with h | h | h | h | h <;> exact ⟨_, h.2⟩
  | fspanend =>
    rcases exec_fspanend_phase s with h | h <;> exact ⟨_, h.2⟩

/-- An operation of unit G writes `gcrc` and the result bit, nothing else (R14). -/
theorem exec_unitG_frame {i : Instr} {s t : State} (hu : unitOf i = some .g) (h : exec i s = .next t) :
    t = { s with gcrc := t.gcrc, acc := some true } := by
  cases i <;> simp [unitOf] at hu <;> cases h <;> rfl

/-- An operation of unit F leaves `gcrc` and the port (R14). -/
theorem exec_unitF_frame {i : Instr} {s t : State} (hu : unitOf i = some .f) (h : exec i s = .next t) :
    t.gcrc = s.gcrc ∧ t.port = s.port := by
  cases i with
  | nop => simp [unitOf] at hu
  | ginit => simp [unitOf] at hu
  | gbyte d => simp [unitOf] at hu
  | farm => cases h; exact ⟨rfl, rfl⟩
  | fbyte d =>
    rcases exec_fbyte_phase d s with ⟨_, he⟩ | ⟨_, he⟩ | ⟨_, he⟩ | ⟨_, he⟩ | ⟨_, he⟩ <;> rw [he] at h <;> cases h
    · rcases fbytePre_cases d s with ⟨_, e⟩ | ⟨_, _, e⟩ | ⟨_, _, e⟩ <;> simp [e]
    · rcases fbyteLen_cases d s with ⟨_, e⟩ | ⟨_, e⟩ <;> simp [e]
    · simp [fbyteSpan]
    · rcases fbyteCk_cases d s with ⟨_, e⟩ | ⟨_, _, e⟩ | ⟨_, _, e⟩ <;> simp [e]
    · simp
  | fspanend =>
    rcases exec_fspanend_phase s with ⟨_, he⟩ | ⟨_, he⟩ <;> rw [he] at h <;> cases h
    · rcases spanEnd_cases s with ⟨_, _, e⟩ | ⟨_, e⟩ <;> simp [e]
    · simp

/-- Every operation gives a result bit and leaves the port. -/
theorem exec_acc_port {i : Instr} {s t : State} (h : exec i s = .next t) :
    (t.acc = some true ∨ t = { s with acc := some false }) ∧ t.port = s.port := by
  cases i with
  | nop => cases h; exact ⟨.inl rfl, rfl⟩
  | ginit => cases h; exact ⟨.inl rfl, rfl⟩
  | gbyte d => cases h; exact ⟨.inl rfl, rfl⟩
  | farm => cases h; exact ⟨.inl rfl, rfl⟩
  | fbyte d =>
    refine ⟨?_, (exec_unitF_frame (i := .fbyte d) rfl h).2⟩
    rcases exec_fbyte_phase d s with ⟨_, he⟩ | ⟨_, he⟩ | ⟨_, he⟩ | ⟨_, he⟩ | ⟨_, he⟩ <;> rw [he] at h <;> cases h
    · exact .inl rfl
    · exact .inl rfl
    · exact .inl rfl
    · exact .inl rfl
    · exact .inr rfl
  | fspanend =>
    refine ⟨?_, (exec_unitF_frame (i := .fspanend) rfl h).2⟩
    rcases exec_fspanend_phase s with ⟨_, he⟩ | ⟨_, he⟩ <;> rw [he] at h <;> cases h
    · exact .inl rfl
    · exact .inr rfl

/-- Issuing an operation executes it. -/
theorem execMoment_issue (i : Instr) (s : State) : execMoment (issue i) s = exec i s := by
  cases i <;> first
    | rfl
    | simp [execMoment, eventOf, issue, present, execEvent, execWord, encode, opOf, dataOf, decode_append]

theorem eventOf_issue (i : Instr) : eventOf (issue i) = some (.command (encode i)) := rfl

theorem instrOf_issue (i : Instr) : instrOf (issue i) = some i := by
  cases i <;> first
    | rfl
    | simp [instrOf, eventOf, issue, present, encode, opOf, dataOf, decode_append]

/-- The four things a moment can be: nothing, `RESET`, a reserved word, an operation. -/
theorem execMoment_cases (m : Moment) :
    (eventOf m = none ∧ instrOf m = none ∧ ∀ s, execMoment m s = .next (idle s)) ∨
    (eventOf m = some .reset ∧ instrOf m = none ∧ ∀ s, execMoment m s = .next (resetAll s)) ∨
    (eventOf m ≠ some .reset ∧ instrOf m = none ∧ ∀ s, execMoment m s = .next (refuse s)) ∨
    (∃ i, eventOf m ≠ some .reset ∧ instrOf m = some i ∧ ∀ s, execMoment m s = exec i s) := by
  cases he : eventOf m with
  | none => exact .inl ⟨rfl, by simp [instrOf, he], fun s => by simp [execMoment, he]⟩
  | some e =>
    cases e with
    | reset => exact .inr (.inl ⟨rfl, by simp [instrOf, he], fun s => by simp [execMoment, he, execEvent]⟩)
    | command w =>
      cases hd : decode w with
      | error r =>
        refine .inr (.inr (.inl ⟨by simp, by simp [instrOf, he, hd], fun s => ?_⟩))
        cases r; simp [execMoment, he, execEvent, execWord, hd, execReserved]
      | ok i =>
        exact .inr (.inr (.inr ⟨i, by simp, by simp [instrOf, he, hd], fun s => by
          simp [execMoment, he, execEvent, execWord, hd]⟩))

/-- Every moment answers a next state and leaves the port. -/
theorem execMoment_next (m : Moment) (s : State) : ∃ t, execMoment m s = .next t ∧ t.port = s.port := by
  rcases execMoment_cases m with ⟨_, _, h⟩ | ⟨_, _, h⟩ | ⟨_, _, h⟩ | ⟨i, _, _, h⟩
  · exact ⟨_, h s, rfl⟩
  · exact ⟨_, h s, rfl⟩
  · exact ⟨_, h s, rfl⟩
  · obtain ⟨t, ht⟩ := exec_next i s
    exact ⟨t, (h s).trans ht, (exec_acc_port ht).2⟩

/-- An operation does not read the port. -/
theorem exec_port (i : Instr) {s t : State} (h : exec i s = .next t) (p : List Moment) :
    exec i { s with port := p } = .next { t with port := p } := by
  rcases s with ⟨g, ph, ix, pr, ln, cn, ov, fc, rx, er, ac, po⟩
  cases i with
  | nop => cases h; rfl
  | ginit => cases h; rfl
  | gbyte d => cases h; rfl
  | farm => cases h; rfl
  | fbyte d =>
    cases ph <;> simp only [exec, execFbyte] at h ⊢ <;> cases h <;>
      simp only [fbytePre, fbyteLen, fbyteSpan, fbyteCk, accept, refuse, raiseError] <;> (repeat' split) <;> rfl
  | fspanend =>
    cases ph <;> simp only [exec, execFspanend] at h ⊢ <;> cases h <;>
      simp only [spanEnd, accept, refuse, raiseError] <;> first
        | rfl
        | (split <;> rfl)

/-- A moment's effect does not read the moments after it. -/
theorem execMoment_port (m : Moment) {s t : State} (h : execMoment m s = .next t) (p : List Moment) :
    execMoment m { s with port := p } = .next { t with port := p } := by
  rcases execMoment_cases m with ⟨_, _, e⟩ | ⟨_, _, e⟩ | ⟨_, _, e⟩ | ⟨i, _, _, e⟩ <;> rw [e] at h ⊢
  · cases h; rfl
  · cases h; rfl
  · cases h; rfl
  · exact exec_port i h p

end Sys2Proof.Machine
end

