-- ==== Sys2Proof/Laws/PerInstr.lean ====
section
/-! SUPPORT. One family of lemmas, one lemma per operation: the canonical word of an operation is in the operation's row of the map
(30_encoding.md R50), and the row is one of the six. -/

namespace Sys2Proof.Laws.RowMatch

/-- The operation is well-formed, its row is in the map, and its canonical word is in its row. -/
def Statement (i : Instr) : Prop :=
  i.wf = true ∧ rowOf i ∈ opcodeRows ∧ rowHolds (rowOf i) (encode i) = true

theorem nop : Statement .nop := ⟨rfl, by decide, by decide⟩

theorem ginit : Statement .ginit := ⟨rfl, by decide, by decide⟩

theorem gbyte (d : Byte) : Statement (.gbyte d) :=
  ⟨rfl, by simp [rowOf, opcodeRows], by revert d; decide⟩

theorem farm : Statement .farm := ⟨rfl, by decide, by decide⟩

theorem fbyte (d : Byte) : Statement (.fbyte d) :=
  ⟨rfl, by simp [rowOf, opcodeRows], by revert d; decide⟩

theorem fspanend : Statement .fspanend := ⟨rfl, by decide, by decide⟩

end Sys2Proof.Laws.RowMatch
end

