-- ==== Sys2Proof/Laws/Safety.lean ====
section
/-! SUPPORT. The pieces that the invariants of 10_state.md R29 are kept by: one byte shifted in, the fields in wire order,
one span byte counted, one arm. -/

namespace Sys2Proof.Machine

/-- Shifting a byte in multiplies the low 24 bits by 256 (R76, R77). -/
theorem shiftIn_toNat (r : Word32) (d : Byte) : (shiftIn r d).toNat = (r.toNat % 2 ^ 24) * 256 + d.toNat := by
  have h : (shiftIn r d).toNat = _ := BitVec.toNat_append (r.extractLsb' 0 24) d
  rw [h, ← Nat.shiftLeft_add_eq_or_of_lt d.isLt]
  simp [Nat.shiftLeft_eq]

theorem idx_cases (i : BitVec 2) : i = 0#2 ∨ i = 1#2 ∨ i = 2#2 ∨ i = 3#2 := by revert i; decide

/-- A field holds the bytes received so far in its low `8 * idx` bits (R17, R18): one more byte keeps that. -/
theorem shiftIn_bound {r : Word32} {i : BitVec 2} (h : r.toNat < 2 ^ (8 * i.toNat)) (hi : i ≠ 3#2) (d : Byte) :
    (shiftIn r d).toNat < 2 ^ (8 * (i + 1#2).toNat) := by
  rw [shiftIn_toNat]
  have := d.isLt
  rcases idx_cases i with rfl | rfl | rfl | rfl
  · simp at h hi ⊢; omega
  · simp at h hi ⊢; omega
  · simp at h hi ⊢; omega
  · exact absurd rfl hi

/-- Four bytes shifted in are the register's bytes in wire order (R32, R76, R77). -/
theorem wireBytes32_shiftIn (r : Word32) (a b c d : Byte) :
    wireBytes32 ([a, b, c, d].foldl shiftIn r) = [a, b, c, d] := by
  have := a.isLt; have := b.isLt; have := c.isLt; have := d.isLt
  have h : ([a, b, c, d].foldl shiftIn r).toNat = ((a.toNat * 256 + b.toNat) * 256 + c.toNat) * 256 + d.toNat := by
    simp only [List.foldl_cons, List.foldl_nil, shiftIn_toNat]; omega
  simp only [wireBytes32, List.cons.injEq, and_true]
  refine ⟨?_, ?_, ?_, ?_⟩ <;> apply BitVec.eq_of_toNat_eq <;>
    rw [BitVec.extractLsb'_toNat, h, Nat.shiftRight_eq_div_pow] <;> omega

/-- The low byte written last is the second byte on the wire (R46, R79). -/
theorem wireBytes16_withLowByte (r : Crc) (d : Byte) : wireBytes16 (withLowByte r d) = [highByte r, d] := by
  have := d.isLt; have := (highByte r).isLt
  have h : (withLowByte r d).toNat = (highByte r).toNat * 256 + d.toNat := by
    have h : (withLowByte r d).toNat = _ := BitVec.toNat_append (r.extractLsb' 8 8) d
    rw [h, ← Nat.shiftLeft_add_eq_or_of_lt d.isLt, Nat.shiftLeft_eq, highByte]
  simp only [wireBytes16, List.cons.injEq, and_true]
  refine ⟨?_, ?_⟩ <;> apply BitVec.eq_of_toNat_eq <;>
    simp only [highByte, lowByte, BitVec.extractLsb'_toNat, Nat.shiftRight_eq_div_pow] at h ⊢ <;> omega

/-- The high byte written first is the first byte on the wire (R46, R79). -/
@[simp] theorem highByte_withHighByte (r : Crc) (d : Byte) : highByte (withHighByte r d) = d := by
  have := d.isLt; have hl := (r.extractLsb' 0 8).isLt
  have h : (withHighByte r d).toNat = d.toNat * 256 + (r.extractLsb' 0 8).toNat := by
    have h : (withHighByte r d).toNat = _ := BitVec.toNat_append d (r.extractLsb' 0 8)
    rw [h, ← Nat.shiftLeft_add_eq_or_of_lt hl, Nat.shiftLeft_eq]
  apply BitVec.eq_of_toNat_eq
  rw [highByte, BitVec.extractLsb'_toNat, h, Nat.shiftRight_eq_div_pow]; omega

/-- Accepting a span byte counts it (R19, R20, R22, R78). -/
theorem countsSpan_snoc {s : State} {span : List Byte} (h : CountsSpan s span) (d : Byte) :
    CountsSpan (accept (fbyteSpan d s)) (span ++ [d]) := by
  obtain ⟨h1, h2, h3⟩ := h
  refine ⟨by simp [fbyteSpan, h1, crc16, crcFold_snoc], by simp [fbyteSpan, h2, BitVec.ofNat_add], ?_⟩
  simp only [accept_ovf, fbyteSpan, ovfNext, Config.cntMax, List.length_append, List.length_singleton]
  have hmax : s.cnt = 0xFFFFFFFF#32 ↔ span.length % 2 ^ 32 = 2 ^ 32 - 1 := by
    rw [h2, ← BitVec.toNat_inj]; simp
  by_cases hc : s.cnt = 0xFFFFFFFF#32
  · have := hmax.mp hc
    simp only [hc, if_true, true_iff]; omega
  · have := mt hmax.mpr hc
    simp only [hc, if_false]; rw [h3]; omega

/-- The armed state meets the invariants (R29, R74). -/
theorem invariants_armF (s : State) : Invariants (armF s) := by simp [Invariants, Config.crcInit]

end Sys2Proof.Machine
end

