-- ==== Sys2Proof/Laws/Step.lean ====
section
/-! SUPPORT. A step, by what stands at the front of the port. -/

namespace Sys2Proof.Machine

theorem step_of_port {s : State} {m : Moment} {rest : List Moment} (h : s.port = m :: rest) :
    step s = execMoment m { s with port := rest } := by
  simp [step, nextMoment, afterMoment, h]

theorem step_of_no_port {s : State} (h : s.port = []) : step s = .next (idle s) := by
  cases s; simp only at h; subst h; rfl

/-- Every step answers a next state. -/
theorem step_next (s : State) : ∃ t, step s = .next t := by
  obtain ⟨t, ht, _⟩ := execMoment_next (nextMoment s) (afterMoment s)
  exact ⟨t, ht⟩

theorem tableMoment_toNat (w : CmdWord) : tableMoment 12 w.toNat = present w := by
  have hw : w.toNat % 2 ^ 12 = w.toNat := Nat.mod_eq_of_lt w.isLt
  rw [tableMoment, hw, if_pos w.isLt, BitVec.ofNat_toNat, BitVec.setWidth_eq]

end Sys2Proof.Machine
end

