-- ==== Sys2Proof/Laws/Trace.lean ====
section
/-! SUPPORT. Sequences of moments: one moment at the front, and two sequences one after the other. -/

namespace Sys2Proof.Machine

@[simp] theorem runMoments_nil (s : State) : runMoments [] s = .next s := rfl

theorem runMoments_cons {m : Moment} {s t : State} (h : execMoment m s = .next t) (ms : List Moment) :
    runMoments (m :: ms) s = runMoments ms t := by simp [runMoments, h]

theorem acceptedBytes_cons {m : Moment} {s t : State} (h : execMoment m s = .next t) (ms : List Moment) :
    acceptedBytes (m :: ms) s = takenByte m t ++ acceptedBytes ms t := by simp [acceptedBytes, h]

theorem runMoments_issue {i : Instr} {s t : State} (h : exec i s = .next t) (is : List Instr) :
    runMoments ((i :: is).map issue) s = runMoments (is.map issue) t := by
  rw [List.map_cons, runMoments_cons ((execMoment_issue i s).trans h)]

/-- A sequence of moments always leads to a state, and leaves the port. -/
theorem runMoments_next (ms : List Moment) (s : State) : ∃ t, runMoments ms s = .next t ∧ t.port = s.port := by
  induction ms generalizing s with
  | nil => exact ⟨s, rfl, rfl⟩
  | cons m ms ih =>
    obtain ⟨t, ht, hp⟩ := execMoment_next m s
    obtain ⟨u, hu, hq⟩ := ih t
    exact ⟨u, by rw [runMoments_cons ht, hu], hq.trans hp⟩

theorem runMoments_append {ms : List Moment} {s t : State} (h : runMoments ms s = .next t) (ns : List Moment) :
    runMoments (ms ++ ns) s = runMoments ns t := by
  induction ms generalizing s with
  | nil => cases h; rfl
  | cons m ms ih =>
    obtain ⟨u, hu, _⟩ := execMoment_next m s
    rw [List.cons_append, runMoments_cons hu]
    exact ih ((runMoments_cons hu ms).symm.trans h)

theorem acceptedBytes_append {ms : List Moment} {s t : State} (h : runMoments ms s = .next t) (ns : List Moment) :
    acceptedBytes (ms ++ ns) s = acceptedBytes ms s ++ acceptedBytes ns t := by
  induction ms generalizing s with
  | nil => cases h; rfl
  | cons m ms ih =>
    obtain ⟨u, hu, _⟩ := execMoment_next m s
    rw [List.cons_append, acceptedBytes_cons hu, acceptedBytes_cons hu, List.append_assoc]
    rw [ih ((runMoments_cons hu ms).symm.trans h)]

theorem fbyteResults_append {ms : List Moment} {s t : State} (h : runMoments ms s = .next t) (ns : List Moment) :
    fbyteResults (ms ++ ns) s = fbyteResults ms s ++ fbyteResults ns t := by
  induction ms generalizing s with
  | nil => cases h; rfl
  | cons m ms ih =>
    obtain ⟨u, hu, _⟩ := execMoment_next m s
    simp only [List.cons_append, fbyteResults, hu]
    rw [ih ((runMoments_cons hu ms).symm.trans h), List.append_assoc]

end Sys2Proof.Machine
end

