-- ==== Sys2Proof/Tests/Slice0.lean ====
section
/-! SUPPORT. Small tests of the model, every expected value taken from spec/ (the rule or vector stands in the comment), and for
every statement with hypotheses a concrete witness that meets them. -/

namespace Sys2Proof.Tests

open Sys2Proof Sys2Proof.Machine

/-- What a step leads to, seen through `f`. -/
def seen {α : Type} (f : State → α) (o : Host.Outcome State Fault Refusal) : Option α :=
  match o with
  | .next t => some (f t)
  | .fault _ => none
  | .refused _ => none

/-- V10 before its `FSPANEND`: span `08 00 00` received. -/
def spanState : State := { State.reset with phase := .span, len := 3#32, cnt := 3#32, fcrc := 0xC281#16 }

/-- V10 after its `FSPANEND`. -/
def ckState : State := { spanState with phase := .ck }

/-- V10 after its first checksum byte. -/
def ckLowState : State := { ckState with idx := 1#2, rxck := 0xC200#16 }

/-- V18's start state with `cnt` one further. -/
def fullState : State := { State.reset with phase := .span, cnt := 0xFFFFFFFF#32, fcrc := 0xA893#16 }

/-- V10's end state. -/
def okState : State := { ckState with phase := .ok, rxck := 0xC281#16 }

/-- V21's end state. -/
def badChecksumState : State := { ckState with phase := .err, err := .fatal .checksumMismatch, rxck := 0x81C2#16 }

/-- V15's end state. -/
def badLengthState : State :=
  { State.reset with phase := .err, err := .fatal .lengthMismatch, len := 4#32, cnt := 3#32, fcrc := 0xC281#16 }

/-- V11's end state. -/
def badPreambleState : State := { State.reset with phase := .err, err := .fatal .invalidPreamble, pre := 1#32 }

/-- Unit F before the fourth preamble byte, all zero so far. -/
def lastPreambleState : State := { State.reset with idx := 3#2 }

/-! ### Well-formedness -/

/-- R53: the lowest and the highest reserved word are ill-formed, the highest assigned one is not. -/
theorem test_wf_reserved_words : cmdAssigned 0x600#12 = false ∧ cmdAssigned 0xFFF#12 = false ∧ cmdAssigned 0x5FF#12 = true := by decide

/-- R56: `FRAME B @e` asks for `8 + e <= |B|`. -/
theorem test_wf_frame_marker_beyond_bytes :
    pseudoWf (.frame (List.replicate 10 0x00#8) (some 3)) = false ∧ pseudoWf (.frame (List.replicate 11 0x00#8) (some 3)) = true := by
  decide

/-! ### Decoding: words written out from R49, R50 -/

theorem test_decode_nop : decode 0b000000000000#12 = .ok .nop := rfl
theorem test_decode_ginit : decode 0b000111111111#12 = .ok .ginit := rfl
theorem test_decode_gbyte : decode 0b001000110001#12 = .ok (.gbyte 0x31#8) := rfl
theorem test_decode_farm : decode 0b001100000000#12 = .ok .farm := rfl
theorem test_decode_fbyte : decode 0b010011000010#12 = .ok (.fbyte 0xC2#8) := rfl
theorem test_decode_fspanend : decode 0b010100000000#12 = .ok .fspanend := rfl
theorem test_decode_reserved : decode 0b011010101011#12 = .error (.reservedOp 0x6#4) := rfl
theorem test_encode_listing :
    [Instr.nop, .ginit, .gbyte 0x31#8, .farm, .fbyte 0x08#8, .fspanend].map encode =
      [0x000#12, 0x100#12, 0x231#12, 0x300#12, 0x408#12, 0x500#12] := by decide
theorem test_table_word : decodeTableWord 16 0x4C2 = some (.fbyte 0xC2#8) ∧ decodeTableWord 16 0x6AB = none := by decide

/-- R50: no two rows of the map overlap. -/
theorem test_rows_do_not_overlap :
    opcodeRows.Pairwise fun a b => a.pattern &&& b.mask ≠ b.pattern &&& a.mask := by decide

/-! ### One step per operation -/

/-- V35: `0x0FF` is `NOP`, accepted. -/
theorem test_nop : seen (fun t => (t.gcrc, t.acc)) (step ({ State.reset with gcrc := 0xD4C1#16 }.withFetchWord 16 0x0FF)) =
    some (0xD4C1#16, some true) := by decide

/-- V35: `0xFFF` is reserved, refused. -/
theorem test_reserved : seen (fun t => (t.gcrc, t.acc)) (step ({ State.reset with gcrc := 0xD4C1#16 }.withFetchWord 16 0xFFF)) =
    some (0xD4C1#16, some false) := by decide

/-- R70's example. -/
theorem test_ginit : seen (fun t => (t.gcrc, t.acc)) (exec .ginit { State.reset with gcrc := 0xBB3D#16 }) =
    some (0x0000#16, some true) := by decide

/-- R71's example, from `0xD4C1`. -/
theorem test_gbyte : seen (fun t => (t.gcrc, t.acc)) (step ({ State.reset with gcrc := 0xD4C1#16 }.withFetchWord 16 0x232)) =
    some (0x4594#16, some true) := by decide

/-- R74's example: `FARM` in `ERR` with `err == 3`. -/
theorem test_farm : seen (fun t => (status t, t.rxck, t.acc)) (exec .farm badChecksumState) =
    some (0x00#8, 0x0000#16, some true) := by decide

/-- V18, second line: the counter wraps and `ovf` is set. -/
theorem test_fbyte_wrap : seen (fun t => (t.cnt, t.ovf, t.fcrc, status t)) (exec (.fbyte 0xBB#8) fullState) =
    some (0x00000000#32, true, 0x1EA8#16, 0x82#8) := by decide

/-- V27: one checksum bit wrong. -/
theorem test_fbyte_checksum_bit : seen (fun t => (t.rxck, t.fcrc, status t, t.acc)) (exec (.fbyte 0x80#8) ckLowState) =
    some (0xC280#16, 0xC281#16, 0x65#8, some true) := by decide

/-- V18, last line: `cnt == len` but `ovf == 1`. -/
theorem test_fspanend_overflow :
    seen (fun t => (status t, t.acc)) (exec .fspanend { fullState with cnt := 0#32, ovf := true }) = some (0xC5#8, some true) := by
  decide

/-- V32, first line: refused in `PRE`. -/
theorem test_fspanend_refused : seen (fun t => (status t, t.acc)) (exec .fspanend State.reset) = some (0x00#8, some false) := by decide

/-- V36, R107: `RESET` with a command word at the same moment. -/
theorem test_reset_event :
    seen (fun t => (t.gcrc, status t, t.acc))
      (step { badChecksumState with gcrc := 0xBB3D#16, port := [⟨true, some 0x231#12⟩] }) = some (0x0000#16, 0x00#8, none) := by decide

/-! ### The checksum function -/

/-- V7 and R66's corner values. -/
theorem test_crc_corner_values :
    crcUpdate 0xFFFF#16 0x00#8 = 0x40BF#16 ∧ crcUpdate 0xFFFF#16 0xFF#8 = 0x00FF#16 ∧ crcUpdate 0x0001#16 0x00#8 = 0xC0C1#16 ∧
    crcUpdate 0x8000#16 0x00#8 = 0x0080#16 ∧ crcUpdate 0x0100#16 0x00#8 = 0x0001#16 ∧ crcUpdate 0xBB3D#16 0xBB#8 = 0xA23A#16 := by
  decide

/-- V4: the eight turns of `crc_update(0x0000, 0x31)`. -/
theorem test_crc_bit_serial_trace :
    (List.range 9).map (fun n => crcBits n 0x0031#16) =
      [0x0031#16, 0xA019#16, 0xF00D#16, 0xD807#16, 0xCC02#16, 0x6601#16, 0x9301#16, 0xE981#16, 0xD4C1#16] := by decide

/-- V9: a command-shaped span, and R68's residue in both byte orders. -/
theorem test_crc_ranges :
    crc16 [0x0C#8, 0x01#8, 0x00#8, 0x00#8, 0x00#8, 0x00#8, 0x01#8] = 0x110C#16 ∧
    crcFold 0xBB3D#16 [0x3D#8, 0xBB#8] = 0x0000#16 ∧ crcFold 0xBB3D#16 [0xBB#8, 0x3D#8] = 0xC2E3#16 := by decide +kernel

/-- V9: the span of V10. -/
theorem test_crc_smallest_span : crc16 [0x08#8, 0x00#8, 0x00#8] = 0xC281#16 := by decide +kernel

/-- V9: the other two forms on one value. -/
theorem test_crc_other_forms :
    crcByTable 0xD4C1#16 0x32#8 = 0x4594#16 ∧ crcParallel 0xD4C1#16 0x32#8 = 0x4594#16 ∧ crcReflected [0x31#8] = 0xD4C1#16 := by decide +kernel

/-! ### Views -/

/-- R26's examples. -/
theorem test_status_examples :
    status okState = 0x04#8 ∧ status badChecksumState = 0x65#8 ∧ status badLengthState = 0x45#8 ∧ status badPreambleState = 0x25#8 := by
  decide

/-- The widths of R13's table add up to 152; the sentence above the table says 182 (log entry 13). -/
theorem test_register_bits : (allRegs.map regWidth).sum = 152 := by decide

/-- R43 with V10: the frame around the span `08 00 00`. -/
theorem test_envelope :
    envelope [0x08#8, 0x00#8, 0x00#8] =
      [0x00#8, 0x00#8, 0x00#8, 0x00#8, 0x00#8, 0x00#8, 0x00#8, 0x03#8, 0x08#8, 0x00#8, 0x00#8, 0xC2#8, 0x81#8] := by decide +kernel

/-- R84, rows 2, 4, 5 and 8 on V11, V29 and V10's bytes. -/
theorem test_closed_form :
    status (closedForm [0x00#8, 0x00#8, 0x00#8, 0x01#8, 0x00#8] none State.reset) = 0x25#8 ∧
    status (closedForm (envelope [0x08#8, 0x00#8, 0x00#8]) none State.reset) = 0x02#8 ∧
    status (closedForm (envelope [0x08#8, 0x00#8, 0x00#8]) (some 2) State.reset) = 0x45#8 ∧
    status (closedForm (envelope [0x08#8, 0x00#8, 0x00#8]) (some 3) State.reset) = 0x04#8 ∧
    consumed (envelope [0x08#8, 0x00#8, 0x00#8]) (some 3) = 13 := by decide +kernel

/-- R55: a listing line with its comment. -/
theorem test_parse_listing_line :
    parseLine ['F', 'B', 'Y', 'T', 'E', ' ', '0', 'x', 'C', '2', ' ', ';', ' ', '0', 'x', '4', 'C', '2'] = .ok (some (.fbyte 0xC2#8)) := by
  decide

/-! ### Witnesses: states and operands that meet the hypotheses of the statements -/

theorem test_witness_ResetEventOverridesACommandWord :
    ({ badChecksumState with port := [⟨true, some 0x231#12⟩] } : State).port = ⟨true, some 0x231#12⟩ :: [] := rfl

theorem test_witness_NoEventNoChange :
    ({ spanState with port := [⟨false, none⟩] } : State).port = ⟨false, none⟩ :: [] ∧ spanState.port = [] := ⟨rfl, rfl⟩

theorem test_witness_StepRunsTheDecodedOperation :
    ({ spanState with port := [⟨false, some 0x408#12⟩] } : State).port = ⟨false, some 0x408#12⟩ :: [] ∧
      decode 0x408#12 = .ok (.fbyte 0x08#8) := ⟨rfl, rfl⟩

theorem test_witness_StepsTakeThePortInOrder :
    ({ State.reset with port := [issue .ginit, issue .farm, quiet] } : State).port = [issue .ginit, issue .farm] ++ [quiet] := rfl

theorem test_witness_ReservedWordIsRefused :
    0x600 ≤ (0x600#12).toNat ∧ 0x600 ≤ (0xFFF#12).toNat ∧
      ({ spanState with port := [⟨false, some 0x600#12⟩] } : State).port = ⟨false, some 0x600#12⟩ :: [] := by decide

theorem test_witness_DecodeAndEncodeAgree :
    (Instr.gbyte 0xFF#8).wf = true ∧ cmdAssigned 0x5FF#12 = true ∧ decode 0x5FF#12 = .ok .fspanend ∧ decode 0x2FF#12 = .ok (.gbyte 0xFF#8) :=
  ⟨rfl, rfl, rfl, rfl⟩

theorem test_witness_FbyteInPreamble :
    (State.reset.phase = .pre ∧ State.reset.idx ≠ 3#2) ∧
    (lastPreambleState.phase = .pre ∧ lastPreambleState.idx = 3#2 ∧ lastPreambleState.pre.extractLsb' 0 24 ++ 0x00#8 = 0x00000000#32) ∧
    (lastPreambleState.phase = .pre ∧ lastPreambleState.idx = 3#2 ∧ lastPreambleState.pre.extractLsb' 0 24 ++ 0x01#8 ≠ 0x00000000#32) := by
  decide

theorem test_witness_FbyteInLength :
    ({ State.reset with phase := .len } : State).phase = .len ∧ ({ State.reset with phase := .len } : State).idx = 0#2 ∧
    ({ State.reset with phase := .len, idx := 2#2 } : State).idx ≠ 3#2 ∧ ({ State.reset with phase := .len, idx := 3#2 } : State).idx = 3#2 := by
  decide

theorem test_witness_FbyteInSpan : spanState.phase = .span ∧ fullState.phase = .span ∧ fullState.cnt = 0xFFFFFFFF#32 := by decide

theorem test_witness_FbyteInChecksum :
    (ckState.phase = .ck ∧ ckState.idx = 0#2) ∧
    (ckLowState.phase = .ck ∧ ckLowState.idx = 1#2 ∧ ckLowState.rxck.extractLsb' 8 8 ++ 0x81#8 = ckLowState.fcrc) ∧
    (ckLowState.phase = .ck ∧ ckLowState.idx = 1#2 ∧ ckLowState.rxck.extractLsb' 8 8 ++ 0x80#8 ≠ ckLowState.fcrc) := by decide

theorem test_witness_FbyteAfterTheVerdictIsRefused : okState.phase = .ok ∧ badLengthState.phase = .err := by decide

theorem test_witness_FspanendInSpan :
    (spanState.phase = .span ∧ spanState.ovf = false ∧ spanState.cnt = spanState.len) ∧
    (fullState.phase = .span ∧ fullState.cnt ≠ fullState.len) ∧
    ({ fullState with cnt := 0#32, ovf := true } : State).ovf = true := by decide

theorem test_witness_FspanendOutsideTheSpanIsRefused : State.reset.phase ≠ .span ∧ ckState.phase ≠ .span := by decide

theorem test_witness_GeneratorFoldsItsBytes :
    (∀ m ∈ [issue (.gbyte 0x31#8), issue (.fbyte 0x00#8), present 0x6AB#12, quiet], startsRange m = false) ∧
      gbyteData [issue (.gbyte 0x31#8), issue (.fbyte 0x00#8), present 0x6AB#12, quiet] = [0x31#8] := by decide

theorem test_witness_UnitsCommute : unitOf (.gbyte 0x31#8) = some .g ∧ unitOf .fspanend = some .f := by decide

theorem test_witness_UnitsDoNotInterfere :
    AgreeOn .f spanState { spanState with gcrc := 0xBB3D#16 } ∧ AgreeOn .g spanState State.reset := by
  constructor <;> intro r hr <;> cases r <;> first | rfl | cases hr

theorem test_witness_StepIsTotal : seen (fun t => t.acc) (execMoment ⟨false, some 0x500#12⟩ State.reset) = some (some false) := by decide

theorem test_witness_RegistersAreWrittenOnlyByTheirWriters :
    seen (fun t => readReg t .gcrc) (execMoment (issue (.gbyte 0x31#8)) State.reset) = some 0xD4C1#16 ∧
      readReg State.reset .gcrc = 0x0000#16 := ⟨rfl, rfl⟩

theorem test_witness_OverflowIsSticky :
    fullState.ovf = false ∧ seen (fun t => t.ovf) (execMoment (issue (.fbyte 0xBB#8)) fullState) = some true ∧
      ({ fullState with ovf := true } : State).ovf = true ∧ instrOf (issue (.fbyte 0xBB#8)) ≠ some .fspanend := by decide

/-- The reachable span state `08 00 00` meets the invariants of R29. -/
theorem test_spanState_invariants : Invariants spanState :=
  ⟨rfl, rfl, rfl, rfl, [0x08#8, 0x00#8, 0x00#8], test_crc_smallest_span.symm, by decide, by decide⟩

theorem test_ckLowState_invariants : Invariants ckLowState :=
  ⟨rfl, rfl, rfl, rfl, by decide, by decide, by decide, [0x08#8, 0x00#8, 0x00#8], test_crc_smallest_span.symm, by decide, by decide⟩

theorem test_okState_invariants : Invariants okState :=
  ⟨rfl, rfl, rfl, rfl, rfl, rfl, [0x08#8, 0x00#8, 0x00#8], test_crc_smallest_span.symm, by decide, by decide⟩

theorem test_badChecksumState_invariants : Invariants badChecksumState :=
  ⟨rfl, rfl, rfl, rfl, by decide, [0x08#8, 0x00#8, 0x00#8], test_crc_smallest_span.symm, by decide, by decide⟩

theorem test_badLengthState_invariants : Invariants badLengthState :=
  ⟨rfl, rfl, rfl, by decide, [0x08#8, 0x00#8, 0x00#8], test_crc_smallest_span.symm, by decide, by decide⟩

theorem test_badPreambleState_invariants : Invariants badPreambleState :=
  ⟨rfl, by decide, rfl, rfl, rfl, rfl, rfl⟩

theorem test_lastPreambleState_invariants : Invariants lastPreambleState :=
  ⟨rfl, by decide, rfl, rfl, rfl, rfl, rfl⟩

/-- One witness for each error: the state before it meets the invariants with no error, and the moment raises it. -/
theorem test_witness_ErrorsAreRaisedOnlyAsListed :
    (Invariants lastPreambleState ∧ lastPreambleState.err = .noError ∧
      seen (fun t => t.err) (execMoment (issue (.fbyte 0x01#8)) lastPreambleState) = some (.fatal .invalidPreamble)) ∧
    (Invariants { spanState with len := 4#32 } ∧
      seen (fun t => t.err) (execMoment (issue .fspanend) { spanState with len := 4#32 }) = some (.fatal .lengthMismatch)) ∧
    (Invariants ckLowState ∧ ckLowState.err = .noError ∧
      seen (fun t => t.err) (execMoment (issue (.fbyte 0x80#8)) ckLowState) = some (.fatal .checksumMismatch)) :=
  ⟨⟨test_lastPreambleState_invariants, rfl, by decide⟩,
    ⟨⟨rfl, rfl, rfl, rfl, [0x08#8, 0x00#8, 0x00#8], test_crc_smallest_span.symm, by decide, by decide⟩, by decide⟩,
    ⟨test_ckLowState_invariants, rfl, by decide⟩⟩

/-- R92: from the armed state, one sequence for each error (V11's preamble; a span byte where `len` is 0; an empty span with checksum `81 C2`). -/
theorem test_witness_ErrorsLeaveTheFrameReadable :
    Armed State.reset ∧
    ((∀ m ∈ List.replicate 3 (issue (.fbyte 0x00#8)) ++ [issue (.fbyte 0x01#8)], arms m = false) ∧
      seen (fun t => (t.err, t.pre)) (runMoments (List.replicate 3 (issue (.fbyte 0x00#8)) ++ [issue (.fbyte 0x01#8)]) State.reset) =
        some (.fatal .invalidPreamble, 0x00000001#32)) ∧
    ((∀ m ∈ List.replicate 9 (issue (.fbyte 0x00#8)) ++ [issue .fspanend], arms m = false) ∧
      seen (fun t => (t.err, t.len, t.cnt)) (runMoments (List.replicate 9 (issue (.fbyte 0x00#8)) ++ [issue .fspanend]) State.reset) =
        some (.fatal .lengthMismatch, 0#32, 1#32)) ∧
    ((∀ m ∈ List.replicate 8 (issue (.fbyte 0x00#8)) ++ [issue .fspanend, issue (.fbyte 0x81#8), issue (.fbyte 0xC2#8)], arms m = false) ∧
      seen (fun t => (t.err, t.rxck, t.fcrc))
        (runMoments (List.replicate 8 (issue (.fbyte 0x00#8)) ++ [issue .fspanend, issue (.fbyte 0x81#8), issue (.fbyte 0xC2#8)]) State.reset) =
        some (.fatal .checksumMismatch, 0x81C2#16, 0x0000#16)) :=
  ⟨rfl, by decide, by decide, by decide⟩

theorem test_witness_VerdictIsFrozenUntilTheNextArm :
    Final okState ∧ Final badLengthState ∧ ∀ m ∈ [issue (.fbyte 0x00#8), issue .fspanend, issue .ginit, quiet], arms m = false :=
  ⟨.inl rfl, .inr rfl, by decide⟩

theorem test_witness_PositionNeverGoesBack : Invariants spanState ∧ arms (issue .fspanend) = false ∧ arms (issue .farm) = true :=
  ⟨test_spanState_invariants, by decide, by decide⟩

theorem test_witness_StatusPacksTheSmallRegisters :
    (Invariants okState ∧ okState.phase = .ok) ∧ (Invariants badChecksumState ∧ badChecksumState.err = .fatal .checksumMismatch) ∧
    (Invariants badLengthState ∧ badLengthState.err = .fatal .lengthMismatch ∧ badLengthState.ovf = false) ∧
    (Invariants badPreambleState ∧ badPreambleState.err = .fatal .invalidPreamble) :=
  ⟨⟨test_okState_invariants, rfl⟩, ⟨test_badChecksumState_invariants, rfl⟩, ⟨test_badLengthState_invariants, rfl, rfl⟩,
    ⟨test_badPreambleState_invariants, rfl⟩⟩

theorem test_witness_FieldsAreBigEndian : Armed State.reset ∧ ckState.phase = .ck ∧ ckState.idx = 0#2 := ⟨rfl, rfl, rfl⟩

theorem test_witness_EveryStepKeepsTheInvariants :
    Invariants { spanState with port := [issue .fspanend] } ∧
      step { spanState with port := [issue .fspanend] } = .next { ckState with acc := some true } :=
  ⟨test_spanState_invariants, rfl⟩

theorem test_witness_BytesAcceptedAreReadable :
    Armed State.reset ∧ (∀ m ∈ [issue (.fbyte 0x00#8), quiet, issue (.fbyte 0xFF#8)], arms m = false) ∧
      acceptedBytes [issue (.fbyte 0x00#8), quiet, issue (.fbyte 0xFF#8)] State.reset = [0x00#8, 0xFF#8] ∧
      frameOffset { spanState with cnt := 0xFFFFFFFF#32 } = some (8 + 0xFFFFFFFF) := ⟨rfl, by decide, by decide, by decide⟩

theorem test_witness_BytesAreTakenInTheirFields :
    ([0x08#8, 0x00#8, 0x00#8] : List Byte).length < 2 ^ 32 ∧ 13 ≤ (envelope [0x08#8, 0x00#8, 0x00#8]).length ∧
      takenIn (fieldAt 3 12) = some .ck ∧ takenIn (fieldAt 3 13) = none := by decide

theorem test_witness_EncodedFrameValidates : ([] : List Byte).length < 2 ^ 32 := by decide

/-- V17: the empty span's frame, from the armed state, ends in `OK`. -/
theorem test_witness_OkMeansTheEnvelopeIsConsistent :
    Armed State.reset ∧
    (∀ m ∈ (List.replicate 8 (issue (.fbyte 0x00#8)) ++ issue .fspanend :: List.replicate 2 (issue (.fbyte 0x00#8))), arms m = false) ∧
    seen okOut (runMoments (List.replicate 8 (issue (.fbyte 0x00#8)) ++ issue .fspanend :: List.replicate 2 (issue (.fbyte 0x00#8)))
      State.reset) = some true := ⟨rfl, by decide, by decide⟩

end Sys2Proof.Tests
end

/-! PROOFS. The family `10_state.md`: the sticky flag `ovf` (R20), the three outputs (R25) and the `STATUS` view (R26). -/

namespace Sys2Proof.Machine

/-! ### The three outputs (R25) -/

@[simp] theorem okOut_iff (s : State) : okOut s = true ↔ s.phase = .ok := decide_eq_true_iff

@[simp] theorem failOut_iff (s : State) : failOut s = true ↔ s.phase = .err := decide_eq_true_iff

@[simp] theorem incompleteOut_iff (s : State) :
    incompleteOut s = true ↔ s.phase = .pre ∨ s.phase = .len ∨ s.phase = .span ∨ s.phase = .ck := by
  simp [incompleteOut, or_assoc]

/-- R25: the three output lines are one-hot, phase by phase. -/
theorem outputs_count_true (s : State) : [okOut s, failOut s, incompleteOut s].count true = 1 := by
  unfold okOut failOut incompleteOut
  cases s.phase <;> decide

/-- Settles O44: each output is its phase test, and the phases of the three tests are a partition. -/
theorem exactlyOneOutputHolds : Obligations.ExactlyOneOutputHolds :=
  fun s => ⟨okOut_iff s, failOut_iff s, incompleteOut_iff s, outputs_count_true s⟩

/-! ### The fields of `STATUS` (R26) -/

theorem status_phaseField (s : State) : (status s).extractLsb' 0 3 = phaseCode s.phase :=
  BitVec.extractLsb'_append_eq_right

theorem status_idxField (s : State) : (status s).extractLsb' 3 2 = s.idx :=
  (BitVec.extractLsb'_append_eq_of_le (by decide)).trans BitVec.extractLsb'_append_eq_right

theorem status_errField (s : State) : (status s).extractLsb' 5 2 = errCode s.err :=
  calc (status s).extractLsb' 5 2
      = (BitVec.ofBool s.ovf ++ errCode s.err ++ s.idx).extractLsb' 2 2 :=
        BitVec.extractLsb'_append_eq_of_le (by decide)
    _ = (BitVec.ofBool s.ovf ++ errCode s.err).extractLsb' 0 2 :=
        BitVec.extractLsb'_append_eq_of_le (by decide)
    _ = errCode s.err := BitVec.extractLsb'_append_eq_right

theorem status_ovfBit (s : State) : (status s).getLsbD 7 = s.ovf := by
  unfold status
  iterate 3 rw [BitVec.getLsbD_append, if_neg (by decide)]
  cases s.ovf <;> rfl

theorem phaseCode_le_five (p : Phase) : phaseCode p ≤ 5#3 := by cases p <;> decide

theorem phaseCode_eq_five_iff (p : Phase) : phaseCode p = 5#3 ↔ p = .err := by cases p <;> decide

theorem errorCode_ne_zero (e : FatalError) : errorCode e ≠ 0#2 := by cases e <;> decide

theorem errCode_ne_zero_iff (c : ErrCode) : errCode c ≠ 0#2 ↔ c ≠ .noError := by
  cases c with
  | noError => simp [errCode]
  | fatal e => simp [errCode, errorCode_ne_zero e]

/-! ### What the invariants say of the small registers (R29) -/

/-- R29: `err` holds an error in phase `ERR` and nowhere else. -/
theorem Invariants.err_ne_noError_iff {s : State} (h : Invariants s) : s.err ≠ .noError ↔ s.phase = .err := by
  cases hp : s.phase with
  | err =>
    cases he : s.err with
    | noError => simp [Invariants, hp, he] at h
    | fatal e => simp
  | _ =>
    simp only [Invariants, hp] at h
    simp [h.1]

/-- R29: a validated frame leaves the other three small registers at zero. -/
theorem Invariants.of_ok {s : State} (h : Invariants s) (hp : s.phase = .ok) :
    s.err = .noError ∧ s.ovf = false ∧ s.idx = 0#2 := by
  simp only [Invariants, hp] at h
  obtain ⟨herr, -, hovf, -, hidx, -⟩ := h
  exact ⟨herr, hovf, hidx⟩

/-- R29: with an error recorded, the phase is `ERR` and `idx` is 0. -/
theorem Invariants.of_fatal {s : State} {e : FatalError} (h : Invariants s) (he : s.err = .fatal e) :
    s.phase = .err ∧ s.idx = 0#2 := by
  have hp : s.phase = .err := h.err_ne_noError_iff.mp (by simp [he])
  simp only [Invariants, hp] at h
  exact ⟨hp, h.1⟩

/-- R29: `ovf` can be 1 beside `LengthMismatch` only. -/
theorem Invariants.ovf_eq_false_of_fatal {s : State} {e : FatalError} (h : Invariants s) (he : s.err = .fatal e)
    (hne : e ≠ .lengthMismatch) : s.ovf = false := by
  obtain ⟨hp, -⟩ := h.of_fatal he
  simp only [Invariants, hp, he] at h
  cases e with
  | invalidPreamble => obtain ⟨-, -, -, -, hovf, -⟩ := h; exact hovf
  | lengthMismatch => exact absurd rfl hne
  | checksumMismatch => obtain ⟨-, -, hovf, -⟩ := h; exact hovf

/-- `STATUS` of a validated frame (R26). -/
theorem status_of_ok {s : State} (h : Invariants s) (hp : s.phase = .ok) : status s = 0x04#8 := by
  obtain ⟨herr, hovf, hidx⟩ := h.of_ok hp
  rw [status, hp, herr, hovf, hidx]
  rfl

/-- `STATUS` of a fatal error without overflow: the error's code above `ERR` (R26). -/
theorem status_of_fatal {s : State} {e : FatalError} (h : Invariants s) (he : s.err = .fatal e) (hovf : s.ovf = false) :
    status s = BitVec.ofBool false ++ errorCode e ++ 0#2 ++ 5#3 := by
  obtain ⟨hp, hidx⟩ := h.of_fatal he
  rw [status, hp, he, hovf, hidx]
  rfl

/-- Settles O45: `STATUS` is a concatenation, whose fields are read off it, and the invariants fix the small registers
of every final state. -/
theorem statusPacksTheSmallRegisters : Obligations.StatusPacksTheSmallRegisters := by
  refine ⟨fun s => ⟨status_phaseField s, status_idxField s, status_errField s, status_ovfBit s⟩, ?_, rfl, ?_⟩
  · intro s h
    rw [status_phaseField, status_errField, errCode_ne_zero_iff, phaseCode_eq_five_iff]
    exact ⟨phaseCode_le_five s.phase, h.err_ne_noError_iff⟩
  · intro s h
    exact ⟨status_of_ok h,
      fun he => status_of_fatal h he (h.ovf_eq_false_of_fatal he (by decide)),
      fun he hovf => status_of_fatal h he hovf,
      fun he => status_of_fatal h he (h.ovf_eq_false_of_fatal he (by decide))⟩

/-! ### The flag `ovf`: who writes it (R20) -/

@[simp] theorem fbytePre_ovf (d : Byte) (s : State) : (fbytePre d s).ovf = s.ovf := by
  rcases fbytePre_cases d s with ⟨_, e⟩ | ⟨_, _, e⟩ | ⟨_, _, e⟩ <;> rw [e]

@[simp] theorem fbyteLen_ovf (d : Byte) (s : State) : (fbyteLen d s).ovf = s.ovf := by
  rcases fbyteLen_cases d s with ⟨_, e⟩ | ⟨_, e⟩ <;> rw [e]

@[simp] theorem fbyteSpan_ovf (d : Byte) (s : State) : (fbyteSpan d s).ovf = ovfNext s.ovf s.cnt := rfl

@[simp] theorem fbyteCk_ovf (d : Byte) (s : State) : (fbyteCk d s).ovf = s.ovf := by
  rcases fbyteCk_cases d s with ⟨_, e⟩ | ⟨_, _, e⟩ | ⟨_, _, e⟩ <;> rw [e]

@[simp] theorem spanEnd_ovf (s : State) : (spanEnd s).ovf = s.ovf := by
  rcases spanEnd_cases s with ⟨_, _, e⟩ | ⟨_, e⟩ <;> rw [e]

theorem ovfNext_eq_true_iff (ovf : Bool) (cnt : Word32) :
    ovfNext ovf cnt = true ↔ cnt = 0xFFFFFFFF#32 ∨ ovf = true := by
  by_cases h : cnt = 0xFFFFFFFF#32 <;> simp [ovfNext, Config.cntMax, h]

/-- The event of R20 that sets `ovf`: an `FBYTE` presented in `SPAN` with the span counter at its largest value. -/
def WrapsCount (i : Instr) (s : State) : Prop :=
  (∃ d, i = .fbyte d) ∧ s.phase = .span ∧ s.cnt = 0xFFFFFFFF#32

/-- R20, operation by operation: `ovf` is 1 afterwards where the operation wraps the counter, or where it was 1 before
and the operation is not `FARM`. -/
theorem exec_ovf_iff {i : Instr} {s t : State} (h : exec i s = .next t) :
    t.ovf = true ↔ WrapsCount i s ∨ (s.ovf = true ∧ i ≠ .farm) := by
  cases i with
  | nop => cases h; simp [WrapsCount]
  | ginit => cases h; simp [WrapsCount]
  | gbyte d => cases h; simp [WrapsCount]
  | farm => cases h; simp [WrapsCount]
  | fbyte d =>
    rcases exec_fbyte_phase d s with ⟨hp, he⟩ | ⟨hp, he⟩ | ⟨hp, he⟩ | ⟨hp, he⟩ | ⟨hp, he⟩ <;> rw [he] at h <;> cases h
    · simp [WrapsCount, hp]
    · simp [WrapsCount, hp]
    · simp [WrapsCount, hp, ovfNext_eq_true_iff]
    · simp [WrapsCount, hp]
    · rcases hp with hp | hp <;> simp [WrapsCount, hp]
  | fspanend =>
    rcases exec_fspanend_phase s with ⟨_, he⟩ | ⟨_, he⟩ <;> rw [he] at h <;> cases h <;> simp [WrapsCount]

/-- R20, moment by moment: set where the moment's operation wraps the counter, kept unless the moment arms unit F. -/
theorem execMoment_ovf_iff {m : Moment} {s t : State} (h : execMoment m s = .next t) :
    t.ovf = true ↔ (∃ i, instrOf m = some i ∧ WrapsCount i s) ∨ (s.ovf = true ∧ arms m = false) := by
  rcases execMoment_cases m with ⟨he, hi, e⟩ | ⟨he, hi, e⟩ | ⟨he, hi, e⟩ | ⟨i, he, hi, e⟩ <;> rw [e] at h
  · cases h; simp [arms, he, hi]
  · cases h; simp [arms, he, hi]
  · cases h; simp [arms, he, hi]
  · simpa [arms, he, hi] using exec_ovf_iff h

/-- `RESET` takes precedence, so a moment that executes an operation is not `RESET` (R107). -/
theorem eventOf_ne_reset {m : Moment} {i : Instr} (hi : instrOf m = some i) : eventOf m ≠ some .reset :=
  fun he => by simp [instrOf, he] at hi

/-- An operation that wraps the counter is an `FBYTE`, so its moment does not arm. -/
theorem arms_eq_false_of_wrapsCount {m : Moment} {i : Instr} {s : State} (hi : instrOf m = some i)
    (hw : WrapsCount i s) : arms m = false := by
  obtain ⟨⟨d, rfl⟩, -, -⟩ := hw
  simp [arms, eventOf_ne_reset hi, hi]

/-! ### The flag `ovf`: who reads it (R20) -/

section
variable (d : Byte) (s : State) (b : Bool)

theorem fbytePre_withOvf : fbytePre d { s with ovf := b } = { fbytePre d s with ovf := b } := by
  unfold fbytePre
  dsimp only
  split_ifs <;> rfl

theorem fbyteLen_withOvf : fbyteLen d { s with ovf := b } = { fbyteLen d s with ovf := b } := by
  unfold fbyteLen
  dsimp only
  split_ifs <;> rfl

theorem fbyteSpan_withOvf : fbyteSpan d { s with ovf := b } = { fbyteSpan d s with ovf := ovfNext b s.cnt } := rfl

theorem fbyteCk_withOvf : fbyteCk d { s with ovf := b } = { fbyteCk d s with ovf := b } := by
  unfold fbyteCk
  dsimp only
  split_ifs <;> rfl

end

/-! One equation of `FBYTE` per phase (R75), to run it on two states of the same phase. -/

section
variable (d : Byte) {s : State}

theorem exec_fbyte_of_pre (hp : s.phase = .pre) : exec (.fbyte d) s = .next (accept (fbytePre d s)) := by
  simp only [exec, execFbyte, hp]

theorem exec_fbyte_of_len (hp : s.phase = .len) : exec (.fbyte d) s = .next (accept (fbyteLen d s)) := by
  simp only [exec, execFbyte, hp]

theorem exec_fbyte_of_span (hp : s.phase = .span) : exec (.fbyte d) s = .next (accept (fbyteSpan d s)) := by
  simp only [exec, execFbyte, hp]

theorem exec_fbyte_of_ck (hp : s.phase = .ck) : exec (.fbyte d) s = .next (accept (fbyteCk d s)) := by
  simp only [exec, execFbyte, hp]

theorem exec_fbyte_of_final (hp : Final s) : exec (.fbyte d) s = .next (refuse s) := by
  rcases hp with hp | hp <;> simp only [exec, execFbyte, hp]

end

/-- R20: an operation other than `FSPANEND` does not read `ovf`: another value of it before changes at most `ovf` after. -/
theorem exec_withOvf {i : Instr} {s t : State} (hi : i ≠ .fspanend) (h : exec i s = .next t) (b : Bool) :
    ∃ v, exec i { s with ovf := b } = .next { t with ovf := v } := by
  cases i with
  | nop => cases h; exact ⟨b, rfl⟩
  | ginit => cases h; exact ⟨b, rfl⟩
  | gbyte d => cases h; exact ⟨b, rfl⟩
  | farm => cases h; exact ⟨false, rfl⟩
  | fbyte d =>
    rcases exec_fbyte_phase d s with ⟨hp, he⟩ | ⟨hp, he⟩ | ⟨hp, he⟩ | ⟨hp, he⟩ | ⟨hp, he⟩ <;> rw [he] at h <;> cases h
    · exact ⟨b, by rw [exec_fbyte_of_pre d (by exact hp), fbytePre_withOvf]; rfl⟩
    · exact ⟨b, by rw [exec_fbyte_of_len d (by exact hp), fbyteLen_withOvf]; rfl⟩
    · exact ⟨ovfNext b s.cnt, by rw [exec_fbyte_of_span d (by exact hp), fbyteSpan_withOvf]; rfl⟩
    · exact ⟨b, by rw [exec_fbyte_of_ck d (by exact hp), fbyteCk_withOvf]; rfl⟩
    · exact ⟨b, exec_fbyte_of_final d hp⟩
  | fspanend => exact absurd rfl hi

/-- R20: the same of a moment, be it `RESET`, a reserved word or none. -/
theorem execMoment_withOvf {m : Moment} {s t : State} (hm : instrOf m ≠ some .fspanend)
    (h : execMoment m s = .next t) (b : Bool) :
    ∃ v, execMoment m { s with ovf := b } = .next { t with ovf := v } := by
  rcases execMoment_cases m with ⟨_, _, e⟩ | ⟨_, _, e⟩ | ⟨_, _, e⟩ | ⟨i, _, hi, e⟩ <;> rw [e] at h ⊢
  · cases h; exact ⟨b, rfl⟩
  · cases h; exact ⟨false, rfl⟩
  · cases h; exact ⟨b, rfl⟩
  · exact exec_withOvf (fun hf => hm (hf ▸ hi)) h b

/-- Settles O40: who sets and who clears `ovf` is `execMoment_ovf_iff`, who reads it is `execMoment_withOvf`. -/
theorem overflowIsSticky : Obligations.OverflowIsSticky := by
  refine ⟨fun s m => ?_, fun s m hm => ?_⟩
  · obtain ⟨t, ht, -⟩ := execMoment_next m s
    have hovf := execMoment_ovf_iff ht
    refine ⟨t, ht, fun h0 => ?_, fun h1 => ?_⟩
    · simpa [h0, WrapsCount] using hovf
    · have hkept : t.ovf = true ↔ arms m = false := by
        rw [hovf]
        constructor
        · rintro (⟨i, hi, hw⟩ | ⟨-, ha⟩)
          · exact arms_eq_false_of_wrapsCount hi hw
          · exact ha
        · exact fun ha => .inr ⟨h1, ha⟩
      rw [← Bool.not_eq_true, hkept, Bool.not_eq_false]
  · obtain ⟨t, ht, -⟩ := execMoment_next m s
    obtain ⟨v, hv⟩ := execMoment_withOvf hm ht (!s.ovf)
    exact ⟨t, v, ht, hv⟩

end Sys2Proof.Machine

/-! PROOFS. The family `20_memory.md`: the multi-byte fields are assembled big-endian (R32, R44). -/

namespace Sys2Proof.Machine

/-! ### Big-endian fields as numbers (R9, R44), and as what the shifts assemble (R76, R77, R79) -/

theorem toNat_append_byte {w : Nat} (x : BitVec w) (d : Byte) : (x ++ d).toNat = x.toNat * 256 + d.toNat := by
  rw [BitVec.toNat_append, ← Nat.shiftLeft_add_eq_or_of_lt d.isLt, Nat.shiftLeft_eq]

theorem be16_toNat (b0 b1 : Byte) : (be16 b0 b1).toNat = b0.toNat * 2 ^ 8 + b1.toNat := toNat_append_byte b0 b1

theorem be32_toNat (b0 b1 b2 b3 : Byte) :
    (be32 b0 b1 b2 b3).toNat = b0.toNat * 2 ^ 24 + b1.toNat * 2 ^ 16 + b2.toNat * 2 ^ 8 + b3.toNat := by
  have h : (be32 b0 b1 b2 b3).toNat = _ := toNat_append_byte (b0 ++ b1 ++ b2) b3
  rw [h, toNat_append_byte, toNat_append_byte]
  omega

/-- Four bytes shifted in leave nothing of what the register held (R76, R77). -/
theorem foldl_shiftIn_eq_be32 (r : Word32) (b0 b1 b2 b3 : Byte) : [b0, b1, b2, b3].foldl shiftIn r = be32 b0 b1 b2 b3 := by
  apply BitVec.eq_of_toNat_eq
  simp only [List.foldl_cons, List.foldl_nil, shiftIn_toNat, be32_toNat]
  omega

/-- A high byte and then a low byte leave nothing of what the register held (R79). -/
theorem withLowByte_withHighByte (r : Crc) (b0 b1 : Byte) : withLowByte (withHighByte r b0) b1 = be16 b0 b1 :=
  congrArg (· ++ b1) (highByte_withHighByte r b0)

/-! ### What one `FBYTE` leaves in the register of its field (R76, R77, R79) -/

section
variable (d : Byte) (s : State)

@[simp] theorem fbytePre_pre : (fbytePre d s).pre = shiftIn s.pre d := by
  rcases fbytePre_cases d s with ⟨_, e⟩ | ⟨_, _, e⟩ | ⟨_, _, e⟩ <;> rw [e]

@[simp] theorem fbyteLen_len : (fbyteLen d s).len = shiftIn s.len d := by
  rcases fbyteLen_cases d s with ⟨_, e⟩ | ⟨_, e⟩ <;> rw [e]

variable {s}

theorem fbytePre_of_idx_ne_three (hi : s.idx ≠ 3#2) :
    fbytePre d s = { s with pre := shiftIn s.pre d, idx := s.idx + 1#2 } := if_pos hi

theorem fbyteLen_of_idx_ne_three (hi : s.idx ≠ 3#2) :
    fbyteLen d s = { s with len := shiftIn s.len d, idx := s.idx + 1#2 } := if_pos hi

theorem fbyteCk_of_idx_zero (hi : s.idx = 0#2) : fbyteCk d s = { s with rxck := withHighByte s.rxck d, idx := 1#2 } :=
  if_pos hi

theorem fbyteCk_rxck_of_idx_ne_zero (hi : s.idx ≠ 0#2) : (fbyteCk d s).rxck = withLowByte s.rxck d := by
  rcases fbyteCk_cases d s with ⟨h, _⟩ | ⟨_, _, e⟩ | ⟨_, _, e⟩
  · exact absurd h hi
  · rw [e]
  · rw [e]

/-- R76: the fourth byte of a zero preamble opens the length field. -/
theorem fbytePre_of_zero_preamble (hi : s.idx = 3#2) (h0 : shiftIn s.pre d = 0#32) :
    (fbytePre d s).phase = .len ∧ (fbytePre d s).idx = 0#2 := by
  rcases fbytePre_cases d s with ⟨h, _⟩ | ⟨_, _, e⟩ | ⟨_, h, _⟩
  · exact absurd hi h
  · rw [e]; exact ⟨rfl, rfl⟩
  · exact absurd h0 h

end

/-! ### A 4-byte field, byte by byte (R76, R77)

The preamble and the length are taken in the same way, so the run over a field's bytes is proved once, for a family of
states `field r i a` in which `r` is the field's register, `i` is `idx` and `a` is the last result bit. -/

/-- The state `s` in phase `PRE`, with `i` bytes of the preamble received. -/
def takingPreamble (s : State) (r : Word32) (i : BitVec 2) (a : Option Bool) : State :=
  { s with phase := .pre, pre := r, idx := i, acc := a }

/-- The state `s` in phase `LEN`, with `i` bytes of the length received. -/
def takingLength (s : State) (r : Word32) (i : BitVec 2) (a : Option Bool) : State :=
  { s with phase := .len, len := r, idx := i, acc := a }

/-- Every byte of the field but the last is shifted in and counted by `idx`, and nothing else happens. -/
def ShiftsBytesIn (field : Word32 → BitVec 2 → Option Bool → State) : Prop :=
  ∀ r i a d, i ≠ 3#2 → exec (.fbyte d) (field r i a) = .next (field (shiftIn r d) (i + 1#2) (some true))

theorem shiftsBytesIn_takingPreamble (s : State) : ShiftsBytesIn (takingPreamble s) := by
  intro r i a d hi
  rw [exec_fbyte_of_pre d rfl, fbytePre_of_idx_ne_three d hi]
  rfl

theorem shiftsBytesIn_takingLength (s : State) : ShiftsBytesIn (takingLength s) := by
  intro r i a d hi
  rw [exec_fbyte_of_len d rfl, fbyteLen_of_idx_ne_three d hi]
  rfl

/-- The bytes of a field before its last are shifted in one after the other. -/
theorem ShiftsBytesIn.run_bytes {field : Word32 → BitVec 2 → Option Bool → State} (h : ShiftsBytesIn field)
    (bytes : List Byte) (r : Word32) (i : BitVec 2) (a : Option Bool) (hlen : i.toNat + bytes.length ≤ 3) :
    ∃ a', runMoments ((bytes.map Instr.fbyte).map issue) (field r i a) =
      .next (field (bytes.foldl shiftIn r) (i + BitVec.ofNat 2 bytes.length) a') := by
  induction bytes generalizing r i a with
  | nil => exact ⟨a, by simp⟩
  | cons b bs ih =>
    rw [List.length_cons] at hlen
    have hi : i ≠ 3#2 := by rintro rfl; simp at hlen
    have hnext : (i + 1#2).toNat = i.toNat + 1 := by bv_omega
    obtain ⟨a', hrun⟩ := ih (shiftIn r b) (i + 1#2) (some true) (by omega)
    refine ⟨a', ?_⟩
    rw [List.map_cons, runMoments_issue (h r i a b hi), hrun, BitVec.add_assoc, ← BitVec.ofNat_add, Nat.add_comm 1]
    rfl

/-- The four bytes of a field: three are shifted in, and the fourth does what it does at `idx = 3`. -/
theorem ShiftsBytesIn.run_four {field : Word32 → BitVec 2 → Option Bool → State} (h : ShiftsBytesIn field)
    (r : Word32) (a : Option Bool) (b0 b1 b2 b3 : Byte) :
    ∃ a', runMoments ([Instr.fbyte b0, .fbyte b1, .fbyte b2, .fbyte b3].map issue) (field r 0#2 a) =
      exec (.fbyte b3) (field ([b0, b1, b2].foldl shiftIn r) 3#2 a') := by
  obtain ⟨a', hrun⟩ := h.run_bytes [b0, b1, b2] r 0#2 a (le_refl 3)
  obtain ⟨t, ht⟩ := exec_next (.fbyte b3) (field ([b0, b1, b2].foldl shiftIn r) 3#2 a')
  exact ⟨a', (runMoments_append hrun [issue (.fbyte b3)]).trans ((runMoments_issue ht []).trans ht.symm)⟩

/-! ### The three fields (R32) -/

section
variable {s : State}

/-- The preamble: four bytes from `(PRE, 0)` leave `pre` at `be32` of them, and open the length field where that is zero. -/
theorem runMoments_preamble (hp : s.phase = .pre) (hi : s.idx = 0#2) (b0 b1 b2 b3 : Byte) :
    ∃ t, runMoments ([Instr.fbyte b0, .fbyte b1, .fbyte b2, .fbyte b3].map issue) s = .next t ∧
      t.pre = be32 b0 b1 b2 b3 ∧ (be32 b0 b1 b2 b3 = 0#32 → t.phase = .len ∧ t.idx = 0#2) := by
  have hs : s = takingPreamble s s.pre 0#2 s.acc := by rw [takingPreamble, ← hp, ← hi]
  obtain ⟨a, hrun⟩ := (shiftsBytesIn_takingPreamble s).run_four s.pre s.acc b0 b1 b2 b3
  rw [← hs, exec_fbyte_of_pre b3 rfl] at hrun
  have hpre := foldl_shiftIn_eq_be32 s.pre b0 b1 b2 b3
  exact ⟨_, hrun, (fbytePre_pre b3 _).trans hpre, fun h0 => fbytePre_of_zero_preamble b3 rfl (hpre.trans h0)⟩

/-- The length: four bytes from `(LEN, 0)` leave `len` at `be32` of them. -/
theorem runMoments_length (hp : s.phase = .len) (hi : s.idx = 0#2) (b4 b5 b6 b7 : Byte) :
    ∃ t, runMoments ([Instr.fbyte b4, .fbyte b5, .fbyte b6, .fbyte b7].map issue) s = .next t ∧
      t.len = be32 b4 b5 b6 b7 := by
  have hs : s = takingLength s s.len 0#2 s.acc := by rw [takingLength, ← hp, ← hi]
  obtain ⟨a, hrun⟩ := (shiftsBytesIn_takingLength s).run_four s.len s.acc b4 b5 b6 b7
  rw [← hs, exec_fbyte_of_len b7 rfl] at hrun
  exact ⟨_, hrun, (fbyteLen_len b7 _).trans (foldl_shiftIn_eq_be32 s.len b4 b5 b6 b7)⟩

/-- The checksum: two bytes from `(CK, 0)` leave `rxck` at `be16` of them. -/
theorem runMoments_checksum (hp : s.phase = .ck) (hi : s.idx = 0#2) (b0 b1 : Byte) :
    ∃ t, runMoments ([Instr.fbyte b0, .fbyte b1].map issue) s = .next t ∧ t.rxck = be16 b0 b1 := by
  have hfirst := exec_fbyte_of_ck b0 hp
  rw [fbyteCk_of_idx_zero b0 hi] at hfirst
  have hsecond := exec_fbyte_of_ck b1 (s := accept { s with rxck := withHighByte s.rxck b0, idx := 1#2 }) hp
  refine ⟨_, (runMoments_issue hfirst _).trans (runMoments_issue hsecond []), ?_⟩
  rw [accept_rxck, fbyteCk_rxck_of_idx_ne_zero b1 (by simp)]
  exact withLowByte_withHighByte s.rxck b0 b1

theorem Armed.phase_idx (h : Armed s) : s.phase = .pre ∧ s.idx = 0#2 := by
  rw [h]
  exact ⟨rfl, rfl⟩

end

/-- Settles O46: the two byte orders as numbers, and the run over each of the three fields; a zero preamble leads to the
length field. -/
theorem fieldsAreBigEndian : Obligations.FieldsAreBigEndian := by
  refine ⟨be32_toNat, be16_toNat, fun s b0 b1 b2 b3 h => ?_, fun s b4 b5 b6 b7 h => ?_,
    fun s b0 b1 hp hi => runMoments_checksum hp hi b0 b1⟩
  · obtain ⟨hp, hi⟩ := h.phase_idx
    obtain ⟨t, hrun, hpre, -⟩ := runMoments_preamble hp hi b0 b1 b2 b3
    exact ⟨t, hrun, hpre⟩
  · obtain ⟨hp, hi⟩ := h.phase_idx
    obtain ⟨t, hrun, -, hzero⟩ := runMoments_preamble hp hi 0x00#8 0x00#8 0x00#8 0x00#8
    obtain ⟨hp', hi'⟩ := hzero rfl
    obtain ⟨u, hrun', hlen⟩ := runMoments_length hp' hi' b4 b5 b6 b7
    exact ⟨u, (runMoments_append hrun _).trans hrun', hlen⟩

end Sys2Proof.Machine

/-! PROOFS. The family `30_encoding.md`: the rows of the operation map (R50) and the ignored `data` bits of format C0 (R52). -/

namespace Sys2Proof.Machine

/-! ### A row of the map as a test of `op` (R50) -/

/-- R50: the row of the map for a value of `op`, with mask `0xF00` and pattern `op << 8`. -/
def rowFor (op : BitVec 4) : OpcodeRow := ⟨0xF00#12, op ++ 0x00#8⟩

/-- The values of `op` that select a row (R50). -/
def assignedOps : List (BitVec 4) := [0x0#4, 0x1#4, 0x2#4, 0x3#4, 0x4#4, 0x5#4]

theorem opcodeRows_eq_map : opcodeRows = assignedOps.map rowFor := by decide

theorem rowOf_eq_rowFor (i : Instr) : rowOf i = rowFor (opOf i) := by cases i <;> simp [rowOf, rowFor, opOf]

/-- The mask of a row keeps `op` and clears `data`. -/
theorem append_and_rowMask (op : BitVec 4) (d : Byte) : (op ++ d) &&& 0xF00#12 = op ++ 0x00#8 :=
  calc (op ++ d) &&& (0xF#4 ++ 0x00#8)
      = (op &&& 0xF#4) ++ (d &&& 0x00#8) := BitVec.and_append
    _ = op ++ 0x00#8 := by rw [BitVec.and_zero, show 0xF#4 = BitVec.allOnes 4 from rfl, BitVec.and_allOnes]

theorem rowHolds_rowFor_iff (op : BitVec 4) (w : CmdWord) : rowHolds (rowFor op) w = true ↔ cmdOp w = op := by
  have hmask : w &&& 0xF00#12 = cmdOp w ++ 0x00#8 := by rw [← append_and_rowMask, cmdWord_eq]
  simp only [rowHolds, rowFor, hmask, decide_eq_true_eq]
  constructor
  · intro h
    simpa using congrArg cmdOp h
  · exact fun h => h ▸ rfl

theorem filter_assignedOps (op : BitVec 4) :
    assignedOps.filter (fun p => op = p) = if op ≤ 5#4 then [op] else [] := by
  revert op; decide

/-- R50: the rows that hold of a word, by its `op` alone. -/
theorem filter_rowHolds (w : CmdWord) :
    opcodeRows.filter (fun r => rowHolds r w) = if cmdOp w ≤ 5#4 then [rowFor (cmdOp w)] else [] := by
  have htest : (fun r => rowHolds r w) ∘ rowFor = fun p => decide (cmdOp w = p) :=
    funext fun p => Bool.eq_iff_iff.mpr ((rowHolds_rowFor_iff p w).trans decide_eq_true_iff.symm)
  rw [opcodeRows_eq_map, List.filter_map, htest, filter_assignedOps]
  split <;> rfl

/-! ### What the decoder's answer says of `op` (R50) -/

theorem opOf_le_five (i : Instr) : opOf i ≤ 5#4 := by cases i <;> simp [opOf]

theorem opOf_of_decode_ok {w : CmdWord} {i : Instr} (h : decode w = .ok i) : opOf i = cmdOp w := by
  unfold decode at h
  split at h <;> cases h
  all_goals exact BitVec.eq_of_toNat_eq (Eq.symm ‹_›)

theorem five_lt_of_decode_error {w : CmdWord} {e : DecodeReject} (h : decode w = .error e) : ¬ cmdOp w ≤ 5#4 := by
  unfold decode at h
  split at h <;> cases h
  simp only [imp_false] at *
  rw [BitVec.le_def, BitVec.toNat_ofNat]
  omega

/-- Settles O9: which rows hold is `filter_rowHolds`, and the decoder's answer tells which value `op` has. -/
theorem decoderSelectsTheOneRow : Obligations.DecoderSelectsTheOneRow := by
  intro w
  rw [filter_rowHolds]
  cases hd : decode w with
  | ok i =>
    have hop : opOf i = cmdOp w := opOf_of_decode_ok hd
    rw [← hop, if_pos (opOf_le_five i), ← rowOf_eq_rowFor]
  | error e => rw [if_neg (five_lt_of_decode_error hd)]

/-- Settles O10: with one of these four values of `op`, the decoder's answer on `op` followed by `data` does not mention `data`. -/
theorem operandlessWordsIgnoreData : Obligations.OperandlessWordsIgnoreData :=
  fun d => ⟨decode_append 0x0#4 d, decode_append 0x1#4 d, decode_append 0x3#4 d, decode_append 0x5#4 d⟩

end Sys2Proof.Machine

/-! PROOFS. The family `40_crc_generator.md`: the operations of unit G (R70, R71) and the trailer (R67). -/

namespace Sys2Proof.Machine

/-! ### What the operations of unit G do (R70, R71) -/

/-- R70: `GINIT` writes `gcrc` alone, and does not read it. -/
@[simp] theorem exec_ginit (s : State) : exec .ginit s = .next { s with gcrc := 0x0000#16, acc := some true } := rfl

/-- R71: `GBYTE d` takes `d` into `gcrc` alone. -/
@[simp] theorem exec_gbyte (d : Byte) (s : State) :
    exec (.gbyte d) s = .next { s with gcrc := crcUpdate s.gcrc d, acc := some true } := rfl

/-- Settles O13: what `GINIT` leaves does not depend on `gcrc` and `acc`, so a second one changes nothing. -/
theorem ginitStartsANewRange : Obligations.GinitStartsANewRange :=
  ⟨decode_append 0x1#4, fun s => ⟨exec_ginit s, exec_ginit { s with gcrc := 0x0000#16, acc := some true }⟩⟩

/-! ### One byte taken into the checksum (R62, R71) -/

/-- No turn of the loop brings a bit into an empty register. -/
@[simp] theorem crcBits_zero (n : Nat) : crcBits n 0x0000#16 = 0x0000#16 := by
  induction n with
  | zero => rfl
  | succ n ih => exact ih

/-- R71's corner case: the byte 0x00 leaves the checksum of an empty range at zero. -/
theorem crcUpdate_zero_zero : crcUpdate 0x0000#16 0x00#8 = 0x0000#16 := crcBits_zero 8

/-- Settles O14: the decoder passes the byte on and `exec_gbyte` takes it in; the rule's two values are eight turns each. -/
theorem gbyteAppendsOneByte : Obligations.GbyteAppendsOneByte :=
  ⟨decode_append 0x2#4, fun s d => exec_gbyte d s, crcUpdate_zero_zero, by decide, by decide⟩

/-! ### The trailer (R67) -/

/-- The two bytes of a checksum on the wire, in the order sent, are the checksum again (R46, R67). -/
@[simp] theorem be16_highByte_lowByte (c : Crc) : be16 (highByte c) (lowByte c) = c := by
  have h : be16 (highByte c) (lowByte c) = c.extractLsb' 0 16 := BitVec.extractLsb'_append_extractLsb'_eq_extractLsb' rfl
  rw [h, BitVec.extractLsb'_eq_self]

/-- R67's example: the span 08 00 00, one byte after the other. -/
theorem crc16_smallest_span : crc16 [0x08#8, 0x00#8, 0x00#8] = 0xC281#16 := by
  have h0 : crcUpdate 0x0000#16 0x08#8 = 0xC601#16 := by decide
  have h1 : crcUpdate 0xC601#16 0x00#8 = 0xC007#16 := by decide
  have h2 : crcUpdate 0xC007#16 0x00#8 = 0xC281#16 := by decide
  rw [crc16, Config.crcInit, crcFold_cons, h0, crcFold_cons, h1, crcFold_cons, h2, crcFold_nil]

/-- Settles O33: `TRAILER` reads `gcrc` as `wireBytes16`, and `be16` undoes that. -/
theorem trailerIsHighByteFirst : Obligations.TrailerIsHighByteFirst :=
  ⟨fun _ => rfl, be16_highByte_lowByte, crc16_smallest_span, rfl⟩

end Sys2Proof.Machine

/-! PROOFS. The family `41_frame_validator.md`: the operations of unit F, phase by phase (R74 to R82). -/

namespace Sys2Proof.Machine

/-! ### `FARM` (R74) -/

@[simp] theorem exec_farm (s : State) : exec .farm s = .next (accept (armF s)) := rfl

/-- R74: arming reads nothing of unit F, nor the result bit, so an armed state is armed to itself. -/
theorem accept_armF_idempotent (s : State) : accept (armF (accept (armF s))) = accept (armF s) := rfl

/-- R74, R108: in unit F an armed state is the reset state. -/
theorem agreeOn_f_accept_armF_reset (s : State) : AgreeOn .f (accept (armF s)) State.reset := by
  intro r hr
  cases r with
  | gcrc => cases hr
  | _ => rfl

/-- R26: `STATUS` is packed from registers of unit F. -/
theorem status_eq_of_agreeOn_f {s t : State} (h : AgreeOn .f s t) : status s = status t := by
  have hfields (u : State) :
      status u = readReg u .ovf ++ readReg u .err ++ readReg u .idx ++ readReg u .phase := rfl
  rw [hfields, hfields, h .ovf rfl, h .err rfl, h .idx rfl, h .phase rfl]

/-- Settles O15: `FARM` accepts the armed state, which in unit F is the reset state. -/
theorem farmArmsUnitF : Obligations.FarmArmsUnitF := by
  refine ⟨decode_append 0x3#4, fun s => ⟨accept (armF s), exec_farm s, rfl, ?_, agreeOn_f_accept_armF_reset s, ?_⟩⟩
  · rw [exec_farm, accept_armF_idempotent]
  · exact status_eq_of_agreeOn_f (agreeOn_f_accept_armF_reset s)

/-! ### `FBYTE`: its result bit, and the errors it can raise (R75) -/

theorem incompleteOut_eq_false_iff (s : State) : incompleteOut s = false ↔ s.phase = .ok ∨ s.phase = .err := by
  unfold incompleteOut
  cases s.phase <;> decide

section
variable {d : Byte} {s t : State}

/-- R75: a byte is accepted exactly while the frame is incomplete. -/
theorem exec_fbyte_acc (h : exec (.fbyte d) s = .next t) : t.acc = some (incompleteOut s) := by
  rcases exec_fbyte_phase d s with ⟨hp, he⟩ | ⟨hp, he⟩ | ⟨hp, he⟩ | ⟨hp, he⟩ | ⟨hp, he⟩ <;> rw [he] at h <;> cases h
  · simp [incompleteOut, hp]
  · simp [incompleteOut, hp]
  · simp [incompleteOut, hp]
  · simp [incompleteOut, hp]
  · simp [(incompleteOut_eq_false_iff s).mpr hp]

/-- R75: `FBYTE` keeps `err`, or raises the error of one of the two fields it judges. -/
theorem exec_fbyte_err (h : exec (.fbyte d) s = .next t) :
    t.err = s.err ∨ t.err = .fatal .invalidPreamble ∨ t.err = .fatal .checksumMismatch := by
  rcases exec_fbyte_phase d s with ⟨_, he⟩ | ⟨_, he⟩ | ⟨_, he⟩ | ⟨_, he⟩ | ⟨_, he⟩ <;> rw [he] at h <;> cases h
  · rcases fbytePre_cases d s with ⟨_, e⟩ | ⟨_, _, e⟩ | ⟨_, _, e⟩ <;> simp [e]
  · rcases fbyteLen_cases d s with ⟨_, e⟩ | ⟨_, e⟩ <;> simp [e]
  · exact .inl rfl
  · rcases fbyteCk_cases d s with ⟨_, e⟩ | ⟨_, _, e⟩ | ⟨_, _, e⟩ <;> simp [e]
  · exact .inl rfl

end

/-- Settles O16: the result bit is the output `incomplete` before the byte; the errors are those of `exec_fbyte_err`. -/
theorem fbyteIsAcceptedByPhase : Obligations.FbyteIsAcceptedByPhase := by
  refine ⟨decode_append 0x4#4, fun s d => ?_⟩
  obtain ⟨t, ht⟩ := exec_next (.fbyte d) s
  have hacc (b : Bool) : t.acc = some b ↔ incompleteOut s = b := by rw [exec_fbyte_acc ht, Option.some_inj]
  refine ⟨t, ht, (hacc true).trans (incompleteOut_iff s), (hacc false).trans (incompleteOut_eq_false_iff s), ?_,
    (exec_unitF_frame rfl ht).1⟩
  intro hlm
  rcases exec_fbyte_err ht with he | he | he
  · exact he ▸ hlm
  · rw [he] at hlm; cases hlm
  · rw [he] at hlm; cases hlm

/-! ### `FBYTE` in each phase (R76 to R80) -/

/-- Settles O17: the three cases of `fbytePre` are the three clauses. -/
theorem fbyteInPreamble : Obligations.FbyteInPreamble := by
  intro s d hp
  rw [exec_fbyte_of_pre d hp]
  rcases fbytePre_cases d s with ⟨hi, e⟩ | ⟨hi, h0, e⟩ | ⟨hi, h0, e⟩ <;> rw [e]
  · exact ⟨fun _ => rfl, fun h => absurd h hi, fun h => absurd h hi⟩
  · exact ⟨fun h => absurd hi h, fun _ _ => rfl, fun _ h => absurd h0 h⟩
  · exact ⟨fun h => absurd hi h, fun _ h => absurd h h0, fun _ _ => rfl⟩

section
variable {s : State}

/-- R77: the first three bytes of the length field. -/
theorem exec_fbyte_length_of_idx_ne_three (d : Byte) (hp : s.phase = .len) (hi : s.idx ≠ 3#2) :
    exec (.fbyte d) s = .next { s with len := shiftIn s.len d, idx := s.idx + 1#2, acc := some true } := by
  rw [exec_fbyte_of_len d hp, fbyteLen_of_idx_ne_three d hi]
  rfl

/-- R77: the fourth byte of the length field opens the span, whatever the length. -/
theorem exec_fbyte_length_of_idx_three (d : Byte) (hp : s.phase = .len) (hi : s.idx = 3#2) :
    exec (.fbyte d) s = .next { s with len := shiftIn s.len d, idx := 0#2, phase := .span, acc := some true } := by
  rw [exec_fbyte_of_len d hp]
  rcases fbyteLen_cases d s with ⟨h, _⟩ | ⟨_, e⟩
  · exact absurd hi h
  · rw [e]; rfl

/-- R77: the four bytes of the length field, from its start into the span. -/
theorem runMoments_whole_length (hp : s.phase = .len) (hi : s.idx = 0#2) (b0 b1 b2 b3 : Byte) :
    runMoments ([Instr.fbyte b0, .fbyte b1, .fbyte b2, .fbyte b3].map issue) s =
      .next { s with len := be32 b0 b1 b2 b3, idx := 0#2, phase := .span, acc := some true } := by
  have hs : s = takingLength s s.len 0#2 s.acc := by rw [takingLength, ← hp, ← hi]
  obtain ⟨a, hrun⟩ := (shiftsBytesIn_takingLength s).run_four s.len s.acc b0 b1 b2 b3
  rw [← hs, exec_fbyte_length_of_idx_three b3 rfl rfl] at hrun
  rw [hrun, ← foldl_shiftIn_eq_be32 s.len b0 b1 b2 b3]
  rfl

end

/-- Settles O18: one byte before the last, the last, and all four. -/
theorem fbyteInLength : Obligations.FbyteInLength :=
  ⟨fun _ d hp => ⟨exec_fbyte_length_of_idx_ne_three d hp, exec_fbyte_length_of_idx_three d hp⟩,
    fun _ b0 b1 b2 b3 hp hi => runMoments_whole_length hp hi b0 b1 b2 b3⟩

/-- Settles O19: `fbyteSpan` accumulates and counts; the counter wraps as a 32-bit sum does. -/
theorem fbyteInSpan : Obligations.FbyteInSpan := by
  intro s d hp
  refine ⟨accept (fbyteSpan d s), exec_fbyte_of_span d hp, rfl, ?_, ?_⟩
  · exact BitVec.toNat_add s.cnt 1#32
  · rw [accept_ovf, fbyteSpan_ovf, ovfNext_eq_true_iff, or_comm]

/-- Settles O20: the three cases of `fbyteCk` are the three clauses. -/
theorem fbyteInChecksum : Obligations.FbyteInChecksum := by
  intro s d hp
  rw [exec_fbyte_of_ck d hp]
  rcases fbyteCk_cases d s with ⟨hi, e⟩ | ⟨hi, hr, e⟩ | ⟨hi, hr, e⟩ <;> rw [e]
  · have h1 : s.idx ≠ 1#2 := by simp [hi]
    exact ⟨fun _ => rfl, fun h => absurd h h1, fun h => absurd h h1⟩
  · exact ⟨fun h => absurd h hi, fun _ _ => rfl, fun _ h => absurd hr h⟩
  · exact ⟨fun h => absurd h hi, fun _ h => absurd h hr, fun _ _ => rfl⟩

/-- Settles O21: a final state refuses the byte. -/
theorem fbyteAfterTheVerdictIsRefused : Obligations.FbyteAfterTheVerdictIsRefused :=
  fun _ d hp => exec_fbyte_of_final d hp

/-! ### `FSPANEND` (R81, R82) -/

section
variable {s : State}

theorem exec_fspanend_of_span (hp : s.phase = .span) : exec .fspanend s = .next (accept (spanEnd s)) := by
  rcases exec_fspanend_phase s with ⟨_, e⟩ | ⟨h, _⟩
  · exact e
  · exact absurd hp h

theorem exec_fspanend_of_ne_span (hp : s.phase ≠ .span) : exec .fspanend s = .next (refuse s) := by
  rcases exec_fspanend_phase s with ⟨h, _⟩ | ⟨_, e⟩
  · exact absurd h hp
  · exact e

end

/-- Settles O22: the two cases of `spanEnd` are the two clauses, which exclude each other. -/
theorem fspanendInSpan : Obligations.FspanendInSpan := by
  refine ⟨decode_append 0x5#4, fun s hp => ?_⟩
  rw [exec_fspanend_of_span hp]
  rcases spanEnd_cases s with ⟨hovf, hcnt, e⟩ | ⟨hne, e⟩ <;> rw [e]
  · exact ⟨fun _ => rfl, fun hne => by simp [hovf, hcnt] at hne⟩
  · exact ⟨fun ⟨hovf, hcnt⟩ => by simp [hovf, hcnt] at hne, fun _ => rfl⟩

/-- Settles O23: outside `SPAN` the marker is refused. -/
theorem fspanendOutsideTheSpanIsRefused : Obligations.FspanendOutsideTheSpanIsRefused :=
  fun _ hp => exec_fspanend_of_ne_span hp

end Sys2Proof.Machine

/-! PROOFS. The family `42_nop_and_reserved.md`: `NOP` (R88), the reserved command words (R89) and the idle block (R90). -/

namespace Sys2Proof.Machine

/-! ### "No register changes" (R13) -/

theorem SameRegs.refl (s : State) : SameRegs s s := fun _ => rfl

theorem SameRegs.trans {s t u : State} (hst : SameRegs s t) (htu : SameRegs t u) : SameRegs s u :=
  fun r => (hst r).trans (htu r)

/-- The fields `acc` and `port` are no registers (R13). -/
theorem sameRegs_withAccPort (s : State) (a : Option Bool) (p : List Moment) :
    SameRegs s { s with acc := a, port := p } := by
  intro r
  cases r <;> rfl

theorem sameRegs_idle (s : State) : SameRegs s (idle s) := sameRegs_withAccPort s none s.port

/-! ### The idle block (R90) -/

@[simp] theorem execMoment_quiet (s : State) : execMoment quiet s = .next (idle s) := rfl

theorem run_succ_of_step {s t : State} (h : step s = .next t) (n : Nat) :
    Host.Core.run core (n + 1) s = Host.Core.run core n t := by
  have hcore : core.step s = .next t := h
  simp only [Host.Core.run, hcore]

/-- A host that has nothing left on the port presents nothing, step after step (R28, R90). -/
theorem run_of_no_port {s : State} (h : s.port = []) (n : Nat) :
    Host.Core.run core n s = runMoments (List.replicate n quiet) s := by
  induction n generalizing s with
  | zero => rfl
  | succ n ih =>
    rw [run_succ_of_step (step_of_no_port h), List.replicate_succ, runMoments_cons (execMoment_quiet s)]
    exact ih h

/-- R90: any number of moments with nothing presented change no register. -/
theorem runMoments_replicate_quiet (s : State) (n : Nat) :
    ∃ t, runMoments (List.replicate n quiet) s = .next t ∧ SameRegs s t := by
  induction n generalizing s with
  | zero => exact ⟨s, rfl, SameRegs.refl s⟩
  | succ n ih =>
    obtain ⟨t, hrun, hsame⟩ := ih (idle s)
    exact ⟨t, (runMoments_cons (execMoment_quiet s) _).trans hrun, (sameRegs_idle s).trans hsame⟩

/-- Settles O4: a quiet step writes `acc` and `port` alone, and steps on an empty port are quiet moments. -/
theorem noEventNoChange : Obligations.NoEventNoChange := by
  refine ⟨fun s rest hport => ?_, fun s n hport => ?_, runMoments_replicate_quiet⟩
  · exact ⟨_, (step_of_port hport).trans (execMoment_quiet _), sameRegs_withAccPort s none rest⟩
  · rw [run_of_no_port hport]
    exact runMoments_replicate_quiet s n

/-! ### Reserved command words (R53, R89) -/

/-- R53: the decoder rejects a word for one reason, its `op`. -/
theorem decode_error_eq_reservedOp {w : CmdWord} {e : DecodeReject} (h : decode w = .error e) :
    e = .reservedOp (cmdOp w) := by
  unfold decode at h
  split at h <;> cases h
  rfl

/-- R53: the converse of `five_lt_of_decode_error`. -/
theorem decode_of_five_lt {w : CmdWord} (h : ¬ cmdOp w ≤ 5#4) : decode w = .error (.reservedOp (cmdOp w)) := by
  cases hd : decode w with
  | ok i => exact absurd (opOf_of_decode_ok hd ▸ opOf_le_five i) h
  | error e => rw [decode_error_eq_reservedOp hd]

/-- The words `0x600 .. 0xFFF` are those whose `op` is above 5 (R53). -/
theorem cmdOp_le_five_iff (w : CmdWord) : cmdOp w ≤ 5#4 ↔ w.toNat < 0x600 := by
  rw [BitVec.le_def, cmdOp_toNat, BitVec.toNat_ofNat]
  omega

/-- R89: a rejected word is refused. -/
theorem execMoment_of_decode_error {w : CmdWord} {e : DecodeReject} (h : decode w = .error e) (s : State) :
    execMoment (present w) s = .next (refuse s) := by
  have hword : execMoment (present w) s = execWord w s := rfl
  rw [hword, execWord, h]
  rfl

/-- Settles O7: the decoder rejects the word, so its moment is refused. -/
theorem reservedWordIsRefused : Obligations.ReservedWordIsRefused := by
  intro s w rest hw hport
  have hop : ¬ cmdOp w ≤ 5#4 := by
    rw [cmdOp_le_five_iff]
    omega
  have hdecode := decode_of_five_lt hop
  exact ⟨hdecode, (step_of_port hport).trans (execMoment_of_decode_error hdecode _)⟩

/-! ### `NOP` (R88) -/

@[simp] theorem exec_nop (s : State) : exec .nop s = .next { s with acc := some true } := rfl

/-- Settles O12: every word with `op` 0 decodes to `NOP`, which writes the result bit alone. -/
theorem nopChangesNothing : Obligations.NopChangesNothing := ⟨decode_append 0x0#4, exec_nop⟩

end Sys2Proof.Machine

/-! PROOFS. The family `60_exceptions.md`: the three errors, who raises each and what it leaves readable (R92, R96). -/

namespace Sys2Proof.Machine

/-! ### The invariants of the three phases an error is raised in (R29) -/

section
variable {s : State}

theorem Invariants.of_pre (h : Invariants s) (hp : s.phase = .pre) :
    s.len = 0#32 ∧ s.cnt = 0#32 ∧ s.ovf = false ∧ s.fcrc = 0#16 ∧ s.rxck = 0#16 := by
  simp only [Invariants, hp] at h
  obtain ⟨-, -, hregs⟩ := h
  exact hregs

theorem Invariants.of_span (h : Invariants s) (hp : s.phase = .span) : s.rxck = 0#16 ∧ ∃ span, CountsSpan s span := by
  simp only [Invariants, hp] at h
  obtain ⟨-, -, -, hregs⟩ := h
  exact hregs

theorem Invariants.of_ck (h : Invariants s) (hp : s.phase = .ck) :
    s.ovf = false ∧ s.cnt = s.len ∧ s.idx.toNat ≤ 1 ∧ ∃ span, CountsSpan s span := by
  simp only [Invariants, hp] at h
  obtain ⟨-, -, hovf, hcnt, hidx, -, -, hspan⟩ := h
  exact ⟨hovf, hcnt, hidx, hspan⟩

/-- R29: the second checksum byte is the one taken at `idx` 1. -/
theorem Invariants.ck_idx_eq_one (h : Invariants s) (hp : s.phase = .ck) (hi : s.idx ≠ 0#2) : s.idx = 1#2 := by
  obtain ⟨-, -, hidx, -⟩ := h.of_ck hp
  bv_omega

/-- R19, R20: without an overflow the counter is the number of span bytes itself. -/
theorem CountsSpan.length_eq {span : List Byte} (h : CountsSpan s span) (hovf : s.ovf = false) :
    span.length = s.cnt.toNat := by
  obtain ⟨-, hcnt, hwrap⟩ := h
  have hlt : span.length < 2 ^ 32 := by simpa [hovf] using hwrap
  rw [hcnt, BitVec.toNat_ofNat, Nat.mod_eq_of_lt hlt]

end

/-! ### The table of R92 -/

/-- The rows of R92, "raised by" and "when". `Raises m s e u`: the moment `m` raises `e` in the state `s`, and `u` is `s`
with the deciding byte, where there is one, in the register of its field. -/
inductive Raises (m : Moment) (s : State) : FatalError → State → Prop
  | invalidPreamble {d : Byte} (hm : instrOf m = some (.fbyte d)) (hp : s.phase = .pre) (hi : s.idx = 3#2)
      (hne : shiftIn s.pre d ≠ 0#32) : Raises m s .invalidPreamble { s with pre := shiftIn s.pre d }
  | lengthMismatch (hm : instrOf m = some .fspanend) (hp : s.phase = .span) (hne : s.ovf = true ∨ s.cnt ≠ s.len) :
      Raises m s .lengthMismatch s
  | checksumMismatch {d : Byte} (hm : instrOf m = some (.fbyte d)) (hp : s.phase = .ck) (hi : s.idx = 1#2)
      (hne : withLowByte s.rxck d ≠ s.fcrc) : Raises m s .checksumMismatch { s with rxck := withLowByte s.rxck d }

theorem execMoment_of_instrOf {m : Moment} {i : Instr} (h : instrOf m = some i) (s : State) :
    execMoment m s = exec i s := by
  rcases execMoment_cases m with ⟨_, hi, _⟩ | ⟨_, hi, _⟩ | ⟨_, hi, _⟩ | ⟨j, _, hi, e⟩ <;> rw [h] at hi <;> cases hi
  exact e s

section
variable {d : Byte} {m : Moment} {s t u : State} {e : FatalError}

/-! What each operation does where its row's condition holds, and that it raises an error nowhere else. -/

theorem fbytePre_of_nonzero_preamble (hi : s.idx = 3#2) (hne : shiftIn s.pre d ≠ 0#32) :
    fbytePre d s = raiseError .invalidPreamble { s with pre := shiftIn s.pre d } := by
  rcases fbytePre_cases d s with ⟨h, _⟩ | ⟨_, h, _⟩ | ⟨_, _, e⟩
  · exact absurd hi h
  · exact absurd h hne
  · exact e

theorem spanEnd_of_mismatch (hne : s.ovf = true ∨ s.cnt ≠ s.len) : spanEnd s = raiseError .lengthMismatch s := by
  rcases spanEnd_cases s with ⟨hovf, hcnt, _⟩ | ⟨_, e⟩
  · simp [hovf, hcnt] at hne
  · exact e

theorem fbyteCk_of_mismatch (hi : s.idx = 1#2) (hne : withLowByte s.rxck d ≠ s.fcrc) :
    fbyteCk d s = raiseError .checksumMismatch { s with rxck := withLowByte s.rxck d } := by
  rcases fbyteCk_cases d s with ⟨h, _⟩ | ⟨_, h, _⟩ | ⟨_, _, e⟩
  · simp [hi] at h
  · exact absurd h hne
  · exact e

/-- R96: the raising moment enters `ERR` and is accepted. -/
theorem Raises.execMoment_eq (h : Raises m s e u) : execMoment m s = .next (accept (raiseError e u)) := by
  cases h with
  | invalidPreamble hm hp hi hne =>
    rw [execMoment_of_instrOf hm, exec_fbyte_of_pre _ hp, fbytePre_of_nonzero_preamble hi hne]
  | lengthMismatch hm hp hne => rw [execMoment_of_instrOf hm, exec_fspanend_of_span hp, spanEnd_of_mismatch hne]
  | checksumMismatch hm hp hi hne =>
    rw [execMoment_of_instrOf hm, exec_fbyte_of_ck _ hp, fbyteCk_of_mismatch hi hne]

/-- R92: an `FBYTE` that records an error is in one of the two rows of `FBYTE`. -/
theorem raises_of_fbyte_err (hinv : Invariants s) (hs : s.err = .noError) (hm : instrOf m = some (.fbyte d))
    (h : exec (.fbyte d) s = .next t) (ht : t.err = .fatal e) : ∃ u, Raises m s e u := by
  rcases exec_fbyte_phase d s with ⟨hp, he⟩ | ⟨_, he⟩ | ⟨_, he⟩ | ⟨hp, he⟩ | ⟨_, he⟩ <;> rw [he] at h <;> cases h
  · rcases fbytePre_cases d s with ⟨_, heq⟩ | ⟨_, _, heq⟩ | ⟨hi, hne, heq⟩ <;> rw [heq] at ht
    · simp [hs] at ht
    · simp [hs] at ht
    · cases ht; exact ⟨_, .invalidPreamble hm hp hi hne⟩
  · rcases fbyteLen_cases d s with ⟨_, heq⟩ | ⟨_, heq⟩ <;> simp [heq, hs] at ht
  · simp [fbyteSpan, hs] at ht
  · rcases fbyteCk_cases d s with ⟨_, heq⟩ | ⟨_, _, heq⟩ | ⟨hi, hne, heq⟩ <;> rw [heq] at ht
    · simp [hs] at ht
    · simp [hs] at ht
    · cases ht; exact ⟨_, .checksumMismatch hm hp (hinv.ck_idx_eq_one hp hi) hne⟩
  · simp [hs] at ht

/-- R92: an `FSPANEND` that records an error is in the row of `FSPANEND`. -/
theorem raises_of_fspanend_err (hs : s.err = .noError) (hm : instrOf m = some .fspanend)
    (h : exec .fspanend s = .next t) (ht : t.err = .fatal e) : ∃ u, Raises m s e u := by
  rcases exec_fspanend_phase s with ⟨hp, he⟩ | ⟨_, he⟩ <;> rw [he] at h <;> cases h
  · rcases spanEnd_cases s with ⟨_, _, heq⟩ | ⟨hne, heq⟩ <;> rw [heq] at ht
    · simp [hs] at ht
    · cases ht; exact ⟨_, .lengthMismatch hm hp hne⟩
  · simp [hs] at ht

/-- R92: "No other operation and no other state can raise an error." -/
theorem raises_of_err (hinv : Invariants s) (hs : s.err = .noError) (h : execMoment m s = .next t)
    (ht : t.err = .fatal e) : ∃ u, Raises m s e u := by
  rcases execMoment_cases m with ⟨_, _, he⟩ | ⟨_, _, he⟩ | ⟨_, _, he⟩ | ⟨i, _, hm, he⟩ <;> rw [he] at h
  · cases h; simp [hs] at ht
  · cases h; simp at ht
  · cases h; simp [hs] at ht
  · cases i with
    | nop => cases h; simp [hs] at ht
    | ginit => cases h; simp [hs] at ht
    | gbyte d => cases h; simp [hs] at ht
    | farm => cases h; simp at ht
    | fbyte d => exact raises_of_fbyte_err hinv hs hm h ht
    | fspanend => exact raises_of_fspanend_err hs hm h ht

/-- R96: what a moment that raises an error leaves. -/
theorem Raises.result_eq (h : Raises m s e u) (ht : execMoment m s = .next t) : t = accept (raiseError e u) :=
  Host.Outcome.next.inj (ht.symm.trans h.execMoment_eq)

/-- R92: an error is recorded exactly where its row says. -/
theorem execMoment_err_iff (hinv : Invariants s) (hs : s.err = .noError) (h : execMoment m s = .next t) :
    t.err = .fatal e ↔ ∃ u, Raises m s e u := by
  refine ⟨raises_of_err hinv hs h, fun ⟨u, hu⟩ => ?_⟩
  rw [hu.result_eq h, accept_err, raiseError_err]

/-! The conditions of the three rows, each by its registers. -/

theorem raises_invalidPreamble_iff : (∃ u, Raises m s .invalidPreamble u) ↔
    ∃ d, instrOf m = some (.fbyte d) ∧ s.phase = .pre ∧ s.idx = 3#2 ∧ shiftIn s.pre d ≠ 0#32 := by
  constructor
  · rintro ⟨_, hu⟩
    cases hu with
    | invalidPreamble hm hp hi hne => exact ⟨_, hm, hp, hi, hne⟩
  · rintro ⟨d, hm, hp, hi, hne⟩
    exact ⟨_, .invalidPreamble hm hp hi hne⟩

theorem raises_lengthMismatch_iff : (∃ u, Raises m s .lengthMismatch u) ↔
    instrOf m = some .fspanend ∧ s.phase = .span ∧ (s.ovf = true ∨ s.cnt ≠ s.len) := by
  constructor
  · rintro ⟨_, hu⟩
    cases hu with
    | lengthMismatch hm hp hne => exact ⟨hm, hp, hne⟩
  · rintro ⟨hm, hp, hne⟩
    exact ⟨_, .lengthMismatch hm hp hne⟩

theorem raises_checksumMismatch_iff : (∃ u, Raises m s .checksumMismatch u) ↔
    ∃ d, instrOf m = some (.fbyte d) ∧ s.phase = .ck ∧ s.idx = 1#2 ∧ withLowByte s.rxck d ≠ s.fcrc := by
  constructor
  · rintro ⟨_, hu⟩
    cases hu with
    | checksumMismatch hm hp hi hne => exact ⟨_, hm, hp, hi, hne⟩
  · rintro ⟨d, hm, hp, hi, hne⟩
    exact ⟨_, .checksumMismatch hm hp hi hne⟩

/-! The column "what is left readable" of R92. -/

theorem Raises.gcrc_eq (h : Raises m s e u) : u.gcrc = s.gcrc := by cases h <;> rfl

theorem Raises.invalidPreamble_readable (hinv : Invariants s) (h : Raises m s .invalidPreamble u) :
    (∃ d, instrOf m = some (.fbyte d) ∧ u.pre = shiftIn s.pre d) ∧ u.pre ≠ 0#32 ∧
      u.len = 0#32 ∧ u.cnt = 0#32 ∧ u.ovf = false ∧ u.fcrc = 0#16 ∧ u.rxck = 0#16 := by
  cases h with
  | invalidPreamble hm hp _ hne => exact ⟨⟨_, hm, rfl⟩, hne, hinv.of_pre hp⟩

theorem Raises.lengthMismatch_readable (hinv : Invariants s) (h : Raises m s .lengthMismatch u) :
    u.len = s.len ∧ u.cnt = s.cnt ∧ u.ovf = s.ovf ∧ u.fcrc = s.fcrc ∧ u.rxck = 0#16 ∧
      ∃ span, CountsSpan s span ∧ CountsSpan u span := by
  cases h with
  | lengthMismatch _ hp _ =>
    obtain ⟨hrxck, span, hspan⟩ := hinv.of_span hp
    exact ⟨rfl, rfl, rfl, rfl, hrxck, span, hspan, hspan⟩

theorem Raises.checksumMismatch_readable (hinv : Invariants s) (h : Raises m s .checksumMismatch u) :
    (∃ d, instrOf m = some (.fbyte d) ∧ u.rxck = withLowByte s.rxck d) ∧ u.rxck ≠ u.fcrc ∧
      u.fcrc = s.fcrc ∧ u.len = u.cnt ∧ ∃ span, CountsSpan s span ∧ CountsSpan u span ∧ span.length = u.len.toNat := by
  cases h with
  | checksumMismatch hm hp _ hne =>
    obtain ⟨hovf, hcnt, -, span, hspan⟩ := hinv.of_ck hp
    have hlen : span.length = s.len.toNat := hcnt ▸ hspan.length_eq hovf
    exact ⟨⟨_, hm, rfl⟩, hne, rfl, hcnt.symm, span, hspan, hspan, hlen⟩

end

/-- Settles O41: an error is recorded exactly where a row of `Raises` holds, and `raise` keeps the registers that the
row's state shows. -/
theorem errorsAreRaisedOnlyAsListed : Obligations.ErrorsAreRaisedOnlyAsListed := by
  refine ⟨rfl, rfl, rfl, fun s m hinv hs => ?_⟩
  obtain ⟨t, ht, -⟩ := execMoment_next m s
  have herr (e : FatalError) : t.err = .fatal e ↔ ∃ u, Raises m s e u := execMoment_err_iff hinv hs ht
  refine ⟨t, ht, ?_, (herr _).trans raises_invalidPreamble_iff, ?_, (herr _).trans raises_lengthMismatch_iff, ?_,
    (herr _).trans raises_checksumMismatch_iff, ?_⟩
  · intro hne
    cases hte : t.err with
    | noError => exact absurd hte hne
    | fatal e =>
      obtain ⟨u, hu⟩ := (herr e).mp hte
      obtain rfl := hu.result_eq ht
      exact ⟨rfl, rfl, rfl, hu.gcrc_eq⟩
  · intro hte
    obtain ⟨u, hu⟩ := (herr _).mp hte
    obtain rfl := hu.result_eq ht
    have hread := hu.invalidPreamble_readable hinv
    exact hread
  · intro hte
    obtain ⟨u, hu⟩ := (herr _).mp hte
    obtain rfl := hu.result_eq ht
    have hread := hu.lengthMismatch_readable hinv
    exact hread
  · intro hte
    obtain ⟨u, hu⟩ := (herr _).mp hte
    obtain rfl := hu.result_eq ht
    have hread := hu.checksumMismatch_readable hinv
    exact hread

end Sys2Proof.Machine

/-! PROOFS. The family `70_reset_and_hazards.md`: the event `RESET` (R107) and the state it leaves (R108). -/

namespace Sys2Proof.Machine

/-! ### The state after `RESET` (R108) -/

@[simp] theorem readReg_reset (r : Reg) : readReg State.reset r = 0 := by cases r <;> rfl

@[simp] theorem status_reset : status State.reset = 0x00#8 := rfl

/-- Settles O1: the registers one by one, by what each of them reads, and the outputs of the phase `PRE`. -/
theorem resetLeavesEveryRegisterZero : Obligations.ResetLeavesEveryRegisterZero :=
  ⟨reset_gcrc, reset_phase, reset_idx, reset_pre, reset_len, reset_cnt, reset_ovf, reset_fcrc, reset_rxck, reset_err,
    readReg_reset, status_reset, (incompleteOut_iff _).mpr (.inl reset_phase), rfl, rfl⟩

/-! ### The event `RESET` (R107) -/

/-- R107: `RESET` takes precedence, whatever word is presented at the same moment. -/
@[simp] theorem eventOf_withReset (word : Option CmdWord) : eventOf { reset := true, cmd := word } = some .reset := rfl

/-- R107: a word presented beside `RESET` is not executed. -/
@[simp] theorem execMoment_withReset (word : Option CmdWord) (s : State) :
    execMoment { reset := true, cmd := word } s = .next (resetAll s) := by
  rw [execMoment, eventOf_withReset]
  rfl

/-- R108: `RESET` reads no register; it leaves the reset values beside the port. -/
theorem sameRegs_reset_resetAll (s : State) : SameRegs State.reset (resetAll s) :=
  sameRegs_withAccPort State.reset none s.port

/-- Settles O2: the step executes the moment as `RESET`, which leaves the reset registers and no result bit. -/
theorem resetEventOverridesACommandWord : Obligations.ResetEventOverridesACommandWord := by
  intro s word rest hport
  have hstep := (step_of_port hport).trans (execMoment_withReset word _)
  exact ⟨_, hstep, sameRegs_reset_resetAll _, resetAll_acc _⟩

end Sys2Proof.Machine

/-! PROOFS. The family `other`: the checksum function, its laws and its other forms (R60 to R68). -/

namespace Sys2Proof.Machine

/-! ### The fold and the loop (R62, R63) -/

/-- R63: nothing is applied at the end, so one more byte is one more update. -/
theorem crc16_snoc (bytes : List Byte) (b : Byte) : crc16 (bytes ++ [b]) = crcUpdate (crc16 bytes) b :=
  crcFold_snoc Config.crcInit bytes b

/-- Settles O24: the fold's two equations, and the nine values by running the loop. -/
theorem checksumIsALeftFold : Obligations.ChecksumIsALeftFold :=
  ⟨rfl, crc16_snoc, by decide +kernel⟩

theorem crcBits_eq_iterate (n : Nat) (t : Crc) : crcBits n t = crcBit^[n] t := by
  induction n generalizing t with
  | zero => rfl
  | succ n ih => exact ih (crcBit t)

theorem getLsbD_zero_iff_and_one (t : Crc) : t.getLsbD 0 = true ↔ t &&& 0x0001#16 = 0x0001#16 := by
  rw [show (0x0001#16 : Crc) = 1#16 from rfl, BitVec.and_one_eq_setWidth_ofBool_getLsbD]
  cases t.getLsbD 0 <;> decide

/-- Settles O25: a turn tests the bit shifted out, whichever way the test is written. -/
theorem checksumUpdateIsBitSerial : Obligations.ChecksumUpdateIsBitSerial := by
  intro c b
  rw [crcUpdate, crcBits_eq_iterate]
  congr 1
  funext t
  simp only [crcBit, getLsbD_zero_iff_and_one, Config.crcPoly]

/-! ### Linearity (R66, first law) -/

theorem crcUpdate_xor (c1 c2 : Crc) (b1 b2 : Byte) :
    crcUpdate (c1 ^^^ c2) (b1 ^^^ b2) = crcUpdate c1 b1 ^^^ crcUpdate c2 b2 := by
  rw [crcUpdate, crcUpdate, crcUpdate, ← crcBits_xor, BitVec.setWidth_xor]
  congr 1
  ac_rfl

theorem crcUpdate_eq_zero_byte (c : Crc) (b : Byte) : crcUpdate c b = crcUpdate (c ^^^ b.setWidth 16) 0x00#8 := by
  simp [crcUpdate]

/-- Settles O29: a turn of the loop is linear (`crcBit_xor`), and the byte enters by XOR. -/
theorem checksumUpdateIsLinear : Obligations.ChecksumUpdateIsLinear := ⟨crcUpdate_xor, crcUpdate_eq_zero_byte⟩

/-! ### Leading zero bytes (R66, second law) -/

/-- An empty register stays empty over zero bytes. -/
@[simp] theorem crcFold_zero_replicate (n : Nat) : crcFold 0x0000#16 (List.replicate n 0x00#8) = 0x0000#16 := by
  induction n with
  | zero => rfl
  | succ n ih => rw [List.replicate_succ, crcFold_cons, crcUpdate_zero_zero, ih]

/-- Settles O30: the zero bytes leave the initial value, from which the fold goes on. -/
theorem checksumIgnoresLeadingZeros : Obligations.ChecksumIgnoresLeadingZeros := by
  refine ⟨fun n m => ?_, crcFold_zero_replicate⟩
  rw [crc16, crcFold_append, Config.crcInit, crcFold_zero_replicate]
  rfl

/-! ### Nothing is lost (R66, third law) -/

theorem crcBits_injective (n : Nat) : Function.Injective (crcBits n) := by
  rw [show crcBits n = crcBit^[n] from funext (crcBits_eq_iterate n)]
  exact crcBit_injective.iterate n

theorem setWidth_byte_injective : Function.Injective fun b : Byte => b.setWidth 16 := by
  intro a b h
  have h8 := congrArg (BitVec.setWidth 8) h
  simpa using h8

/-- Settles O31: the turns are injective, and XOR with a fixed value is. -/
theorem checksumUpdateLosesNothing : Obligations.ChecksumUpdateLosesNothing := by
  refine ⟨fun b => Finite.injective_iff_bijective.mp fun c c' h => ?_, fun c b b' h => ?_⟩
  · exact (BitVec.xor_left_inj _).mp (crcBits_injective 8 h)
  · exact setWidth_byte_injective ((BitVec.xor_right_inj _).mp (crcBits_injective 8 h))

/-! ### The two bytes of the register (R65, R68) -/

theorem setWidth_byte_eq_be16 (b : Byte) : b.setWidth 16 = be16 0x00#8 b :=
  BitVec.setWidth_eq_append (by decide)

theorem be16_xor_be16 (a b c d : Byte) : be16 a b ^^^ be16 c d = be16 (a ^^^ c) (b ^^^ d) := BitVec.xor_append

/-- While zeros are shifted out, the turns only shift. -/
theorem crcBits_eq_ushiftRight (n : Nat) (t : Crc) (h : ∀ i < n, t.getLsbD i = false) : crcBits n t = t >>> n := by
  induction n generalizing t with
  | zero => simp [crcBits]
  | succ n ih =>
    have hturn : crcBit t = t >>> 1 := by rw [crcBit, h 0 n.succ_pos, if_neg Bool.false_ne_true]
    have hzeros : ∀ i < n, (t >>> 1).getLsbD i = false := by
      intro i hi
      rw [BitVec.getLsbD_ushiftRight]
      exact h (1 + i) (by omega)
    rw [crcBits, hturn, ih _ hzeros, ← BitVec.shiftRight_add, Nat.add_comm]

/-- Eight turns bring the high byte down, where the low byte is zero. -/
theorem crcBits_be16_zero (h : Byte) : crcBits 8 (be16 h 0x00#8) = h.setWidth 16 := by
  rw [crcBits_eq_ushiftRight]
  · apply BitVec.eq_of_toNat_eq
    have := h.isLt
    rw [BitVec.toNat_ushiftRight, be16_toNat, Nat.shiftRight_eq_div_pow, BitVec.toNat_setWidth]
    simp
    omega
  · intro i hi
    have happ : (be16 h 0x00#8).getLsbD i = _ := BitVec.getLsbD_append
    simpa [hi] using happ

/-- R65: the high byte moves down, and the low byte meets the byte of the message. -/
theorem crcUpdate_be16 (h l b : Byte) : crcUpdate (be16 h l) b = h.setWidth 16 ^^^ crcUpdate 0x0000#16 (l ^^^ b) := by
  have hsplit : be16 h l ^^^ b.setWidth 16 = be16 h 0x00#8 ^^^ (0x0000#16 ^^^ (l ^^^ b).setWidth 16) := by
    simp only [setWidth_byte_eq_be16, be16_xor_be16, BitVec.zero_xor, BitVec.xor_zero]
  rw [crcUpdate, hsplit, crcBits_xor, crcBits_be16_zero]
  rfl

/-- R68: which register and byte make the checksum zero. -/
theorem crcUpdate_eq_zero_iff (c : Crc) (b : Byte) : crcUpdate c b = 0x0000#16 ↔ c = b.setWidth 16 := by
  rw [← crcBits_zero 8, crcUpdate, (crcBits_injective 8).eq_iff, BitVec.xor_eq_zero_iff]

/-- R68: which register and byte leave no more than a low byte. -/
theorem crcUpdate_eq_setWidth_iff (c : Crc) (x y : Byte) : crcUpdate c x = y.setWidth 16 ↔ c = be16 y x := by
  rw [← crcBits_be16_zero, crcUpdate, (crcBits_injective 8).eq_iff, ← BitVec.xor_left_inj (x.setWidth 16), BitVec.xor_assoc,
    BitVec.xor_self, BitVec.xor_zero, setWidth_byte_eq_be16, be16_xor_be16, BitVec.xor_zero, BitVec.zero_xor]

theorem eq_be16_iff (c : Crc) (x y : Byte) : c = be16 y x ↔ x = lowByte c ∧ y = highByte c := by
  constructor
  · rintro rfl
    exact ⟨BitVec.extractLsb'_append_eq_right.symm, BitVec.extractLsb'_append_eq_left.symm⟩
  · rintro ⟨rfl, rfl⟩
    exact (be16_highByte_lowByte c).symm

/-- Settles O32: the last byte is what the register must be, and so fixes the register before the byte ahead of it. -/
theorem zeroResidueNeedsTheLowByteFirst : Obligations.ZeroResidueNeedsTheLowByteFirst := by
  intro m x y
  have htwo : crc16 (m ++ [x, y]) = crcUpdate (crcUpdate (crc16 m) x) y := by
    rw [← crc16_snoc, ← crc16_snoc, List.append_assoc]
    rfl
  rw [htwo, crcUpdate_eq_zero_iff, crcUpdate_eq_setWidth_iff, eq_be16_iff]

/-! ### The table and the parallel form (R64, R65) -/

theorem crcTable_eq_map : crcTable = (List.range 256).map fun n => crcUpdate 0x0000#16 (BitVec.ofNat 8 n) := by
  decide +kernel

theorem crcTable_getElem? (b : Byte) : crcTable[b.toNat]? = some (crcUpdate 0x0000#16 b) := by
  rw [crcTable_eq_map, List.getElem?_map, List.getElem?_range b.isLt]
  simp

/-- The index of the table form is the low byte of the register XOR the byte. -/
theorem and_low_toNat (h l b : Byte) : ((be16 h l ^^^ b.setWidth 16) &&& 0x00FF#16).toNat = (l ^^^ b).toNat := by
  have hand : be16 h (l ^^^ b) &&& be16 0x00#8 0xFF#8 = be16 0x00#8 (l ^^^ b) :=
    BitVec.and_append.trans (by rw [BitVec.and_zero, show 0xFF#8 = BitVec.allOnes 8 from rfl, BitVec.and_allOnes]; rfl)
  rw [setWidth_byte_eq_be16, be16_xor_be16, BitVec.xor_zero, show 0x00FF#16 = be16 0x00#8 0xFF#8 from rfl, hand, be16_toNat]
  simp

theorem be16_ushiftRight (h l : Byte) : be16 h l >>> 8 = h.setWidth 16 := by
  apply BitVec.eq_of_toNat_eq
  have := h.isLt
  have := l.isLt
  rw [BitVec.toNat_ushiftRight, be16_toNat, Nat.shiftRight_eq_div_pow, BitVec.toNat_setWidth]
  omega

/-- Settles O27: the table is the 256 updates of an empty register, and the table form is `crcUpdate_be16`. -/
theorem tableFormAgrees : Obligations.TableFormAgrees := by
  refine ⟨by simp [crcTable_eq_map], crcTable_getElem?, fun c b => ?_⟩
  rw [← be16_highByte_lowByte c, crcUpdate_be16, crcByTable, and_low_toNat, be16_ushiftRight, List.getD_eq_getElem?_getD,
    crcTable_getElem?]
  rfl

theorem be16_getLsbD (h l : Byte) (i : Nat) :
    (be16 h l).getLsbD i = if i < 8 then l.getLsbD i else h.getLsbD (i - 8) := BitVec.getLsbD_append

/-- The parallel form moves the high byte down, as the table form does: read off its sixteen equations. -/
theorem crcParallel_be16 (h l b : Byte) :
    crcParallel (be16 h l) b = h.setWidth 16 ^^^ crcParallel 0x0000#16 (l ^^^ b) := by
  apply BitVec.eq_of_getLsbD_eq
  intro i hi
  have hl : (crcParallel (be16 h l) b).getLsbD i = _ := BitVec.getLsbD_ofBoolListLE
  have hr : (crcParallel 0x0000#16 (l ^^^ b)).getLsbD i = _ := BitVec.getLsbD_ofBoolListLE
  rw [BitVec.getLsbD_xor, Bool.xor_comm, hl, hr]
  clear hl hr
  simp only [be16_getLsbD, BitVec.getLsbD_xor, BitVec.getLsbD_zero, BitVec.getLsbD_setWidth, Bool.false_xor, Bool.xor_false]
  interval_cases i <;> simp

theorem crcParallel_zero (b : Byte) : crcParallel 0x0000#16 b = crcUpdate 0x0000#16 b := by
  revert b
  decide +kernel

/-- Settles O26: both forms move the high byte down; on the low byte they agree, byte by byte. -/
theorem parallelFormAgrees : Obligations.ParallelFormAgrees := by
  intro c b
  rw [← be16_highByte_lowByte c, crcParallel_be16, crcUpdate_be16, crcParallel_zero]

/-! ### The reflected form (R60) -/

theorem reverse_xor (a b : Crc) : (a ^^^ b).reverse = a.reverse ^^^ b.reverse := by
  ext i hi
  simp [BitVec.getElem_reverse]

/-- One turn of the two loops, seen in a mirror. -/
theorem crcLeftBit_reverse (t : Crc) : crcLeftBit t.reverse = (crcBit t).reverse := by
  have hshift : t.reverse <<< 1 = (t >>> 1).reverse := by
    ext i hi
    rcases i with _ | i
    · simp [BitVec.getElem_reverse, BitVec.getMsbD_eq_getLsbD]
    · have hlt : i < 16 := by omega
      have hidx : 1 + (14 - i) = 15 - i := by omega
      simp [BitVec.getElem_reverse, BitVec.getMsbD_eq_getLsbD, hi, hlt, hidx]
  have hbit : t.reverse.getLsbD 15 = t.getLsbD 0 := by
    rw [BitVec.getLsbD_reverse, BitVec.getMsbD_eq_getLsbD]
    rfl
  have hpoly : Config.crcPolyNormal = Config.crcPoly.reverse := by decide
  rw [crcLeftBit, crcBit, hshift, hbit, hpoly, apply_ite BitVec.reverse, reverse_xor]

theorem crcLeftBits_reverse (n : Nat) (t : Crc) : crcLeftBits n t.reverse = (crcBits n t).reverse := by
  induction n generalizing t with
  | zero => rfl
  | succ n ih => rw [crcLeftBits, crcLeftBit_reverse, ih, crcBits]

/-- One byte of the two registers, seen in a mirror. -/
theorem crcLeftUpdate_reverse (c : Crc) (b : Byte) : crcLeftUpdate c.reverse b.reverse = (crcUpdate c b).reverse := by
  have henter : b.reverse.setWidth 16 <<< 8 = (b.setWidth 16).reverse := by
    ext i hi
    by_cases h8 : i < 8
    · have hidx : 8 ≤ 15 - i := by omega
      simp [BitVec.getElem_reverse, BitVec.getMsbD_eq_getLsbD, h8, hidx]
    · have hlt : i - 8 < 8 := by omega
      have hlt' : 15 - i < 16 := by omega
      have hidx : 7 - (i - 8) = 15 - i := by omega
      simp [BitVec.getElem_reverse, BitVec.getMsbD_eq_getLsbD, hi, h8, hlt, hlt', hidx]
  rw [crcLeftUpdate, henter, ← reverse_xor, crcLeftBits_reverse, crcUpdate]

theorem foldl_crcLeftUpdate_reverse (bytes : List Byte) (c : Crc) :
    (bytes.map BitVec.reverse).foldl crcLeftUpdate c.reverse = (crcFold c bytes).reverse := by
  induction bytes generalizing c with
  | nil => rfl
  | cons b bs ih => rw [List.map_cons, List.foldl_cons, crcLeftUpdate_reverse, ih, crcFold_cons]

/-- Settles O28: the left-shifting register is the mirror image of the right-shifting one, byte after byte. -/
theorem checksumIsTheReflectedAlgorithm : Obligations.ChecksumIsTheReflectedAlgorithm := by
  refine ⟨by decide, fun bytes => ?_⟩
  have hfold := foldl_crcLeftUpdate_reverse bytes Config.crcInit
  rw [show Config.crcInit.reverse = 0x0000#16 by decide] at hfold
  rw [crcReflected, hfold, BitVec.reverse_reverse_eq, crc16]

end Sys2Proof.Machine

/-! PROOFS. The family `other`: decoding and encoding (R49 to R53), and the textual form (R55). -/

namespace Sys2Proof.Machine

/-! ### Decoding undoes encoding (R49 to R52) -/

@[simp] theorem decode_encode (i : Instr) : decode (encode i) = .ok i := by
  rw [encode, decode_append]
  cases i <;> rfl

theorem cmdAssigned_iff (w : CmdWord) : cmdAssigned w = true ↔ cmdOp w ≤ 5#4 := decide_eq_true_iff

theorem cmdAssigned_encode (i : Instr) : cmdAssigned (encode i) = true := by
  rw [cmdAssigned_iff, encode, cmdOp_append]
  exact opOf_le_five i

theorem cmdAssigned_iff_decode_ok (w : CmdWord) : cmdAssigned w = true ↔ ∃ i, decode w = .ok i := by
  rw [cmdAssigned_iff]
  cases hd : decode w with
  | ok i => exact ⟨fun _ => ⟨i, rfl⟩, fun _ => opOf_of_decode_ok hd ▸ opOf_le_five i⟩
  | error e => exact ⟨fun h => absurd h (five_lt_of_decode_error hd), fun ⟨i, hi⟩ => nomatch hi⟩

/-- The operations of format C0, whose words' `data` is ignored (R52). -/
def IsOperandless (i : Instr) : Prop := i = .nop ∨ i = .ginit ∨ i = .farm ∨ i = .fspanend

/-- R51, R52: the decoder passes `data` on, or ignores it, where the canonical word has 0x00. -/
theorem dataOf_of_decode_ok {w : CmdWord} {i : Instr} (h : decode w = .ok i) :
    dataOf i = cmdData w ∨ (dataOf i = 0x00#8 ∧ IsOperandless i) := by
  unfold decode at h
  split at h <;> cases h
  · exact .inr ⟨rfl, .inl rfl⟩
  · exact .inr ⟨rfl, .inr (.inl rfl)⟩
  · exact .inl rfl
  · exact .inr ⟨rfl, .inr (.inr (.inl rfl))⟩
  · exact .inl rfl
  · exact .inr ⟨rfl, .inr (.inr (.inr rfl))⟩

/-- Settles O8: `op` survives both ways, and `data` where the operation has an operand. -/
theorem decodeAndEncodeAgree : Obligations.DecodeAndEncodeAgree := by
  refine ⟨fun i _ => ⟨decode_encode i, cmdAssigned_encode i⟩, cmdAssigned_iff_decode_ok, fun w i h => ?_⟩
  rw [encode, opOf_of_decode_ok h]
  rcases dataOf_of_decode_ok h with hdata | ⟨hdata, hi⟩ <;> rw [hdata]
  · exact .inl (cmdWord_eq w)
  · refine .inr ⟨?_, hi⟩
    rw [← append_and_rowMask, cmdWord_eq]

/-- Settles O11: each listed word is run through the decoder. -/
theorem listedWordsDecode : Obligations.ListedWordsDecode :=
  ⟨rfl, rfl, rfl, rfl, rfl, rfl, rfl, rfl, rfl, rfl, rfl⟩

/-! ### The words of a line (R55) -/

/-- A word of a line: not empty, without a space and without the mark of a comment. -/
def IsWord (w : List Char) : Prop := w ≠ [] ∧ ∀ c ∈ w, c ≠ ' ' ∧ c ≠ ';'

theorem wordsFrom_append {w : List Char} (h : ∀ c ∈ w, c ≠ ' ' ∧ c ≠ ';') (cur rest : List Char) :
    wordsFrom cur (w ++ rest) = wordsFrom (w.reverse ++ cur) rest := by
  induction w generalizing cur with
  | nil => rfl
  | cons c w ih =>
    obtain ⟨⟨hspace, -⟩, hw⟩ := List.forall_mem_cons.mp h
    rw [List.cons_append, wordsFrom, if_neg (by simpa using hspace), ih hw, List.reverse_cons, List.append_assoc]
    rfl

/-- A word at the end of a line. -/
theorem IsWord.wordsFrom_end {w : List Char} (h : IsWord w) : wordsFrom [] w = [w] := by
  have happ := wordsFrom_append h.2 [] []
  rw [List.append_nil, List.append_nil, wordsFrom, if_neg (by simpa using h.1), List.reverse_reverse] at happ
  exact happ

/-- A word before a space. -/
theorem IsWord.wordsFrom_space {w : List Char} (h : IsWord w) (rest : List Char) :
    wordsFrom [] (w ++ ' ' :: rest) = w :: wordsFrom [] rest := by
  rw [wordsFrom_append h.2, List.append_nil, wordsFrom, if_pos (by decide), if_neg (by simpa using h.1), List.reverse_reverse]

/-! ### The operand's text (R55) -/

theorem hexValue_hexChar : ∀ n < 16, hexValue (hexChar n) = some n := by decide

theorem hexChar_ne : ∀ n < 16, hexChar n ≠ ' ' ∧ hexChar n ≠ ';' := by decide

theorem parseByte_renderByte (d : Byte) : parseByte (renderByte d) = some d := by
  have hd := d.isLt
  have hhi := hexValue_hexChar (d.toNat / 16) (by omega)
  have hlo := hexValue_hexChar (d.toNat % 16) (by omega)
  rw [renderByte, parseByte, hhi, hlo]
  simp only [Nat.div_add_mod, BitVec.ofNat_toNat, BitVec.setWidth_eq]

theorem isWord_renderByte (d : Byte) : IsWord (renderByte d) := by
  have hd := d.isLt
  refine ⟨List.cons_ne_nil _ _, ?_⟩
  simp only [renderByte, List.forall_mem_cons]
  exact ⟨by decide, by decide, hexChar_ne _ (by omega), hexChar_ne _ (by omega), by simp⟩

theorem isWord_mnemonicOf (i : Instr) : IsWord (mnemonicOf i) := by cases i <;> simp [IsWord, mnemonicOf]

/-! ### A line (R55) -/

/-- The operand of an operation as text, where it has one (R55). -/
def operandText : Instr → Option (List Char)
  | .gbyte d => some (renderByte d)
  | .fbyte d => some (renderByte d)
  | _ => none

/-- R55: the text of an operation is its mnemonic, and its operand after a space. -/
theorem render_eq (i : Instr) :
    render i = mnemonicOf i ++ (match operandText i with | none => [] | some a => ' ' :: a) := by
  cases i <;> rfl

theorem isWord_operandText {i : Instr} {a : List Char} (h : operandText i = some a) : IsWord a := by
  cases i <;> cases h <;> exact isWord_renderByte _

theorem parseOp_render (i : Instr) : parseOp (mnemonicOf i) (operandText i) = .ok i := by
  cases i with
  | gbyte d => simp [parseOp, mnemonicOf, operandText, parseByte_renderByte]
  | fbyte d => simp [parseOp, mnemonicOf, operandText, parseByte_renderByte]
  | _ => rfl

/-- The text of an operation, alone on its line or before a space. -/
theorem wordsFrom_render (i : Instr) (tail : List Char) (htail : tail = [] ∨ tail = [' ']) :
    wordsFrom [] (render i ++ tail) = mnemonicOf i :: (operandText i).toList := by
  have hend (w : List Char) (hw : IsWord w) : wordsFrom [] (w ++ tail) = [w] := by
    rcases htail with rfl | rfl
    · rw [List.append_nil, hw.wordsFrom_end]
    · rw [hw.wordsFrom_space]
      rfl
  rw [render_eq]
  cases ha : operandText i with
  | none => simpa using hend _ (isWord_mnemonicOf i)
  | some a =>
    rw [List.append_assoc, List.cons_append, (isWord_mnemonicOf i).wordsFrom_space, hend a (isWord_operandText ha)]
    rfl

theorem parseLine_of_dropComment {line : List Char} {i : Instr} {tail : List Char} (htail : tail = [] ∨ tail = [' '])
    (h : dropComment line = render i ++ tail) : parseLine line = .ok (some i) := by
  rw [parseLine, h, wordsFrom_render i tail htail]
  have hparse := parseOp_render i
  cases ha : operandText i <;> rw [ha] at hparse <;> simp [hparse, Except.map]

theorem render_ne_semicolon (i : Instr) : ∀ c ∈ render i, c ≠ ';' := by
  intro c hc
  rw [render_eq, List.mem_append] at hc
  rcases hc with hc | hc
  · exact ((isWord_mnemonicOf i).2 c hc).2
  · cases ha : operandText i with
    | none => simp [ha] at hc
    | some a =>
      rw [ha] at hc
      rcases List.mem_cons.mp hc with rfl | hc
      · decide
      · exact ((isWord_operandText ha).2 c hc).2

/-- Settles O55: a comment is cut off, the words are the mnemonic and the operand, and each reads back. -/
theorem textReadsBack : Obligations.TextReadsBack := by
  intro i comment
  have hclean : ∀ c ∈ render i, (c != ';') = true := fun c hc => by simpa using render_ne_semicolon i c hc
  refine ⟨parseLine_of_dropComment (tail := []) (.inl rfl) ?_, parseLine_of_dropComment (tail := [' ']) (.inr rfl) ?_⟩
  · rw [dropComment, List.takeWhile_eq_self_iff.mpr hclean, List.append_nil]
  · rw [dropComment, List.takeWhile_append_of_pos hclean]
    rfl

end Sys2Proof.Machine

/-! PROOFS. The family `other`: steps, the port and reset (R8, R39, R109). -/

namespace Sys2Proof.Machine

/-! ### `RESET` as two operations (R109) -/

/-- Settles O3: `GINIT` and `FARM` together write every register, with the values of `RESET`. -/
theorem resetEqualsGinitThenFarm : Obligations.ResetEqualsGinitThenFarm :=
  ⟨rfl, fun s word => ⟨_, _, exec_ginit s, exec_farm _, execMoment_withReset word s⟩⟩

/-- Settles O47: the reset state is armed. -/
theorem invariantsHoldAtReset : Obligations.InvariantsHoldAtReset := invariants_armF State.reset

/-! ### A command word (R8, R50) -/

/-- R50: a word that decodes is executed as its operation. -/
theorem execMoment_of_decode_ok {w : CmdWord} {i : Instr} (h : decode w = .ok i) (s : State) :
    execMoment (present w) s = exec i s := by
  have hword : execMoment (present w) s = execWord w s := rfl
  rw [hword, execWord, h]

/-- Settles O5: the front of the port is the word, by hypothesis or by `withFetchWord`. -/
theorem stepRunsTheDecodedOperation : Obligations.StepRunsTheDecodedOperation := by
  refine ⟨fun s w rest i hport hdecode => ?_, fun s w i hdecode => ?_⟩
  · exact (step_of_port hport).trans (execMoment_of_decode_ok hdecode _)
  · have hport : (s.withFetchWord 12 w.toNat).port = present w :: s.port := by
      rw [withFetchWord_port, tableMoment_toNat]
    exact (step_of_port hport).trans (execMoment_of_decode_ok hdecode s)

/-- R8: a command word always gives a result bit, and one that gives 0 writes nothing else. -/
theorem execMoment_present (w : CmdWord) (s : State) : ∃ t b, execMoment (present w) s = .next t ∧ t.acc = some b ∧
    t.port = s.port ∧ (b = false → t = { s with acc := some false }) := by
  cases hd : decode w with
  | error e => exact ⟨refuse s, false, execMoment_of_decode_error hd s, rfl, rfl, fun _ => rfl⟩
  | ok i =>
    obtain ⟨t, ht⟩ := exec_next i s
    obtain ⟨hacc | rfl, hport⟩ := exec_acc_port ht
    · exact ⟨t, true, (execMoment_of_decode_ok hd s).trans ht, hacc, hport, nofun⟩
    · exact ⟨_, false, (execMoment_of_decode_ok hd s).trans ht, rfl, rfl, fun _ => rfl⟩

/-- Settles O38: `step_next` and `execMoment_present`. -/
theorem stepIsTotal : Obligations.StepIsTotal := ⟨step_next, fun s w => execMoment_present w s⟩

/-! ### The port (R39) -/

/-- Settles O6: by induction on the moments; a moment does not read those after it. -/
theorem stepsTakeThePortInOrder : Obligations.StepsTakeThePortInOrder := by
  intro s ms rest hport
  induction ms generalizing s with
  | nil =>
    have hs : s = { s with port := rest } := by rw [← show s.port = rest from hport]
    rw [← hs]
    rfl
  | cons m ms ih =>
    obtain ⟨t, ht, hp⟩ := execMoment_next m { s with port := ms ++ rest }
    rw [List.length_cons, run_succ_of_step ((step_of_port hport).trans ht), ih t hp]
    exact (runMoments_cons (execMoment_port m ht rest) ms).symm

end Sys2Proof.Machine

/-! PROOFS. The family `other`: the two units do not interfere (R14, R40, R56, R69, R85). -/

namespace Sys2Proof.Machine

/-! ### "Agree on unit F" as an equation (R13) -/

/-- The registers of unit F as in `s`, and all else as in `r`. -/
def unitFFrom (s r : State) : State := { s with gcrc := r.gcrc, acc := r.acc, port := r.port }

theorem phaseCode_injective : Function.Injective phaseCode := by
  intro p q
  cases p <;> cases q <;> decide

theorem errCode_injective : Function.Injective errCode := by
  intro c c' h
  rcases c with _ | e <;> rcases c' with _ | e'
  · rfl
  · exact absurd h.symm (errorCode_ne_zero e')
  · exact absurd h (errorCode_ne_zero e)
  · revert h
    cases e <;> cases e' <;> decide

theorem agreeOn_f_unitFFrom (s r : State) : AgreeOn .f s (unitFFrom s r) := by
  intro reg hreg
  cases reg with
  | gcrc => cases hreg
  | _ => rfl

theorem AgreeOn.eq_unitFFrom {s t : State} (h : AgreeOn .f s t) : t = unitFFrom s t := by
  have hphase : s.phase = t.phase := phaseCode_injective (h .phase rfl)
  have hidx : s.idx = t.idx := h .idx rfl
  have hpre : s.pre = t.pre := h .pre rfl
  have hlen : s.len = t.len := h .len rfl
  have hcnt : s.cnt = t.cnt := h .cnt rfl
  have hovf : s.ovf = t.ovf := BitVec.ofBool_eq_iff_eq.mp (h .ovf rfl)
  have hfcrc : s.fcrc = t.fcrc := h .fcrc rfl
  have hrxck : s.rxck = t.rxck := h .rxck rfl
  have herr : s.err = t.err := errCode_injective (h .err rfl)
  rw [unitFFrom, hphase, hidx, hpre, hlen, hcnt, hovf, hfcrc, hrxck, herr]

theorem AgreeOn.symm {u : BlockUnit} {s t : State} (h : AgreeOn u s t) : AgreeOn u t s := fun r hr => (h r hr).symm

theorem AgreeOn.trans {u : BlockUnit} {s t v : State} (h : AgreeOn u s t) (h' : AgreeOn u t v) : AgreeOn u s v :=
  fun r hr => (h r hr).trans (h' r hr)

theorem agreeOn_g_iff {s t : State} : AgreeOn .g s t ↔ s.gcrc = t.gcrc := by
  refine ⟨fun h => h .gcrc rfl, fun h r hr => ?_⟩
  cases r with
  | gcrc => exact h
  | _ => cases hr

/-! ### No operation lets unit F see anything else (R14) -/

section
variable (d : Byte) (s r : State)

theorem fbytePre_unitFFrom : fbytePre d (unitFFrom s r) = unitFFrom (fbytePre d s) r := by
  simp only [fbytePre, apply_ite (unitFFrom · r)]
  rfl

theorem fbyteLen_unitFFrom : fbyteLen d (unitFFrom s r) = unitFFrom (fbyteLen d s) r := by
  simp only [fbyteLen, apply_ite (unitFFrom · r)]
  rfl

theorem fbyteCk_unitFFrom : fbyteCk d (unitFFrom s r) = unitFFrom (fbyteCk d s) r := by
  simp only [fbyteCk, apply_ite (unitFFrom · r)]
  rfl

theorem spanEnd_unitFFrom : spanEnd (unitFFrom s r) = unitFFrom (spanEnd s) r := by
  simp only [spanEnd, apply_ite (unitFFrom · r)]
  rfl

end

/-- R14, operation by operation: what is outside unit F decides neither the registers of unit F nor the result bit. -/
theorem exec_unitFFrom {i : Instr} {s t : State} (h : exec i s = .next t) (r : State) :
    ∃ r', exec i (unitFFrom s r) = .next (unitFFrom t r') ∧ r'.acc = t.acc := by
  cases i with
  | nop => cases h; exact ⟨accept r, rfl, rfl⟩
  | ginit => cases h; exact ⟨accept { r with gcrc := Config.crcInit }, rfl, rfl⟩
  | gbyte d => cases h; exact ⟨accept { r with gcrc := crcUpdate r.gcrc d }, rfl, rfl⟩
  | farm => cases h; exact ⟨accept r, rfl, rfl⟩
  | fbyte d =>
    rcases exec_fbyte_phase d s with ⟨hp, he⟩ | ⟨hp, he⟩ | ⟨hp, he⟩ | ⟨hp, he⟩ | ⟨hp, he⟩ <;> rw [he] at h <;> cases h
    · exact ⟨accept r, by rw [exec_fbyte_of_pre d (by exact hp), fbytePre_unitFFrom]; rfl, rfl⟩
    · exact ⟨accept r, by rw [exec_fbyte_of_len d (by exact hp), fbyteLen_unitFFrom]; rfl, rfl⟩
    · exact ⟨accept r, exec_fbyte_of_span d (by exact hp), rfl⟩
    · exact ⟨accept r, by rw [exec_fbyte_of_ck d (by exact hp), fbyteCk_unitFFrom]; rfl, rfl⟩
    · exact ⟨refuse r, exec_fbyte_of_final d (by exact hp), rfl⟩
  | fspanend =>
    rcases exec_fspanend_phase s with ⟨hp, he⟩ | ⟨hp, he⟩ <;> rw [he] at h <;> cases h
    · exact ⟨accept r, by rw [exec_fspanend_of_span (by exact hp), spanEnd_unitFFrom]; rfl, rfl⟩
    · exact ⟨refuse r, exec_fspanend_of_ne_span (by exact hp), rfl⟩

/-- R14, moment by moment. -/
theorem execMoment_unitFFrom {m : Moment} {s t : State} (h : execMoment m s = .next t) (r : State) :
    ∃ r', execMoment m (unitFFrom s r) = .next (unitFFrom t r') ∧ r'.acc = t.acc := by
  rcases execMoment_cases m with ⟨_, _, e⟩ | ⟨_, _, e⟩ | ⟨_, _, e⟩ | ⟨i, _, _, e⟩ <;> rw [e] at h ⊢
  · cases h; exact ⟨idle r, rfl, rfl⟩
  · cases h; exact ⟨resetAll r, rfl, rfl⟩
  · cases h; exact ⟨refuse r, rfl, rfl⟩
  · exact exec_unitFFrom h r

section
variable {m : Moment} {s s' t t' : State}

theorem execMoment_agreeOn_f (h : AgreeOn .f s s') (ht : execMoment m s = .next t) (ht' : execMoment m s' = .next t') :
    AgreeOn .f t t' ∧ t.acc = t'.acc := by
  obtain ⟨r, hr, hacc⟩ := execMoment_unitFFrom ht s'
  rw [← h.eq_unitFFrom, ht'] at hr
  cases hr
  exact ⟨agreeOn_f_unitFFrom t r, hacc.symm⟩

theorem takenByte_congr (m : Moment) (h : t.acc = t'.acc) : takenByte m t = takenByte m t' := by
  rw [takenByte, takenByte, h]

/-- An operation of unit G takes no byte into unit F, and leaves its registers. -/
theorem execMoment_of_isUnit_g (hm : isUnit .g m = true) (ht : execMoment m s = .next t) :
    AgreeOn .f s t ∧ takenByte m t = [] := by
  cases hi : instrOf m with
  | none => simp [isUnit, hi] at hm
  | some i =>
    have hu : unitOf i = some .g := by simpa [isUnit, hi] using hm
    rw [execMoment_of_instrOf hi] at ht
    refine ⟨exec_unitG_frame hu ht ▸ agreeOn_f_unitFFrom s _, ?_⟩
    cases i with
    | ginit => simp [takenByte, hi]
    | gbyte d => simp [takenByte, hi]
    | _ => cases hu

/-- An operation of unit F leaves unit G. -/
theorem execMoment_of_isUnit_f (hm : isUnit .f m = true) (ht : execMoment m s = .next t) : t.gcrc = s.gcrc := by
  cases hi : instrOf m with
  | none => simp [isUnit, hi] at hm
  | some i =>
    have hu : unitOf i = some .f := by simpa [isUnit, hi] using hm
    rw [execMoment_of_instrOf hi] at ht
    exact (exec_unitF_frame hu ht).1

end

/-! ### What unit G sees (R69) -/

/-- R69, R70, R71: `gcrc` after a moment, from `gcrc` before it. -/
def gcrcNext (m : Moment) (c : Crc) : Crc := if startsRange m then 0x0000#16 else crcFold c (gbyteData [m])

/-- R14, R69: what unit G holds after a moment, whatever the state of unit F. -/
theorem execMoment_gcrc {m : Moment} {s t : State} (h : execMoment m s = .next t) : t.gcrc = gcrcNext m s.gcrc := by
  rcases execMoment_cases m with ⟨he, hi, e⟩ | ⟨he, hi, e⟩ | ⟨he, hi, e⟩ | ⟨i, he, hi, e⟩ <;> rw [e] at h
  · cases h; simp [gcrcNext, startsRange, gbyteData, he, hi]
  · cases h; simp [gcrcNext, startsRange, he]
  · cases h; simp [gcrcNext, startsRange, gbyteData, he, hi]
  · cases i with
    | nop => cases h; simp [gcrcNext, startsRange, gbyteData, he, hi]
    | ginit => cases h; simp [gcrcNext, startsRange, hi, Config.crcInit]
    | gbyte d => cases h; simp [gcrcNext, startsRange, gbyteData, he, hi]
    | farm | fspanend | fbyte d =>
      rw [(exec_unitF_frame rfl h).1]
      simp [gcrcNext, startsRange, gbyteData, he, hi]

theorem gbyteData_cons (m : Moment) (ms : List Moment) : gbyteData (m :: ms) = gbyteData [m] ++ gbyteData ms :=
  List.filterMap_append (l := [m])

/-- R69: over moments that start no range, the bytes given are folded in. -/
theorem runMoments_gcrc (ms : List Moment) (s : State) (hms : ∀ m ∈ ms, startsRange m = false) :
    ∃ t, runMoments ms s = .next t ∧ t.gcrc = crcFold s.gcrc (gbyteData ms) := by
  induction ms generalizing s with
  | nil => exact ⟨s, rfl, rfl⟩
  | cons m ms ih =>
    obtain ⟨hm, hms⟩ := List.forall_mem_cons.mp hms
    obtain ⟨u, hu, -⟩ := execMoment_next m s
    obtain ⟨t, ht, hgcrc⟩ := ih u hms
    refine ⟨t, (runMoments_cons hu ms).trans ht, ?_⟩
    rw [hgcrc, execMoment_gcrc hu, gcrcNext, hm, if_neg Bool.false_ne_true, gbyteData_cons m ms, crcFold_append]

/-- Settles O34: the fold, from what `gcrc` held and from the zero that `GINIT` leaves. -/
theorem generatorFoldsItsBytes : Obligations.GeneratorFoldsItsBytes := by
  intro ms s hms
  refine ⟨runMoments_gcrc ms s hms, ?_⟩
  obtain ⟨t, ht, hgcrc⟩ := runMoments_gcrc ms { s with gcrc := 0x0000#16, acc := some true } hms
  exact ⟨t, (runMoments_cons ((execMoment_issue .ginit s).trans (exec_ginit s)) ms).trans ht, hgcrc⟩

/-- R71: any number of `GBYTE`s, with everything else unchanged. -/
theorem runMoments_gbytes (bytes : List Byte) (s : State) (c : Crc) :
    runMoments ((bytes.map Instr.gbyte).map issue) { s with gcrc := c, acc := some true } =
      .next { s with gcrc := crcFold c bytes, acc := some true } := by
  induction bytes generalizing c with
  | nil => rfl
  | cons b bs ih =>
    rw [List.map_cons, runMoments_issue (exec_gbyte b _)]
    exact ih (crcUpdate c b)

/-- R56: what the expansion of `CRC16` leaves. -/
theorem runMoments_expand_crc16 (bytes : List Byte) (s : State) :
    runMoments ((expand (.crc16 bytes)).map issue) s = .next { s with gcrc := crc16 bytes, acc := some true } := by
  rw [expand, runMoments_issue (exec_ginit s)]
  exact runMoments_gbytes bytes s 0x0000#16

/-- Settles O35: `GINIT`, and then the bytes one after the other. -/
theorem pseudoChecksumLeavesTheChecksum : Obligations.PseudoChecksumLeavesTheChecksum :=
  fun bytes s => ⟨_, runMoments_expand_crc16 bytes s, rfl⟩

/-! ### The units side by side (R14, R40) -/

/-- Settles O36: unit F does not see the operation of unit G before it, nor unit G that of unit F. -/
theorem unitsCommute : Obligations.UnitsCommute := by
  intro g f s hg hf
  obtain ⟨s1, h1⟩ := exec_next g s
  obtain ⟨s12, h12⟩ := exec_next f s1
  obtain ⟨s2, h2⟩ := exec_next f s
  obtain ⟨s21, h21⟩ := exec_next g s2
  have hs1 : AgreeOn .f s s1 := exec_unitG_frame hg h1 ▸ agreeOn_f_unitFFrom s _
  have hs21 : AgreeOn .f s2 s21 := exec_unitG_frame hg h21 ▸ agreeOn_f_unitFFrom s2 _
  obtain ⟨hF, hacc⟩ := execMoment_agreeOn_f hs1 ((execMoment_issue f s).trans h2) ((execMoment_issue f s1).trans h12)
  have hG : s12.gcrc = s21.gcrc := by
    have hg1 := execMoment_gcrc ((execMoment_issue g s).trans h1)
    have hg21 := execMoment_gcrc ((execMoment_issue g s2).trans h21)
    rw [(exec_unitF_frame hf h12).1, hg1, hg21, (exec_unitF_frame hf h2).1]
  have haccG : s1.acc = s21.acc := by rw [exec_unitG_frame hg h1, exec_unitG_frame hg h21]
  have hport : s12.port = s21.port := by
    rw [(exec_acc_port h12).2, (exec_acc_port h1).2, (exec_acc_port h21).2, (exec_acc_port h2).2]
  refine ⟨s1, s12, s2, s21, h1, h12, h2, h21, haccG, hacc.symm, fun r => ?_, hport⟩
  cases hr : regUnit r with
  | g => exact agreeOn_g_iff.mpr hG r hr
  | f => exact hF.symm.trans hs21 r hr

/-- R14: without the operations of unit G, unit F runs the same and takes the same bytes. -/
theorem runMoments_without_unitG (ms : List Moment) {s s' : State} (h : AgreeOn .f s s') :
    ∃ t t', runMoments ms s = .next t ∧ runMoments (ms.filter fun m => !isUnit .g m) s' = .next t' ∧ AgreeOn .f t t' ∧
      acceptedBytes ms s = acceptedBytes (ms.filter fun m => !isUnit .g m) s' := by
  induction ms generalizing s s' with
  | nil => exact ⟨s, s', rfl, rfl, h, rfl⟩
  | cons m ms ih =>
    obtain ⟨u, hu, -⟩ := execMoment_next m s
    rw [runMoments_cons hu, acceptedBytes_cons hu]
    cases hm : isUnit .g m with
    | true =>
      obtain ⟨hsu, hnone⟩ := execMoment_of_isUnit_g hm hu
      rw [List.filter_cons_of_neg (by simp [hm]), hnone]
      exact ih (hsu.symm.trans h)
    | false =>
      obtain ⟨u', hu', -⟩ := execMoment_next m s'
      obtain ⟨huu, hacc⟩ := execMoment_agreeOn_f h hu hu'
      obtain ⟨t, t', ht, ht', htt, hbytes⟩ := ih huu
      rw [List.filter_cons_of_pos (by simp [hm]), runMoments_cons hu', acceptedBytes_cons hu', takenByte_congr m hacc, hbytes]
      exact ⟨t, t', ht, ht', htt, rfl⟩

/-- R14: without the operations of unit F, unit G runs the same. -/
theorem runMoments_without_unitF (ms : List Moment) {s s' : State} (h : s.gcrc = s'.gcrc) :
    ∃ t t', runMoments ms s = .next t ∧ runMoments (ms.filter fun m => !isUnit .f m) s' = .next t' ∧ t.gcrc = t'.gcrc := by
  induction ms generalizing s s' with
  | nil => exact ⟨s, s', rfl, rfl, h⟩
  | cons m ms ih =>
    obtain ⟨u, hu, -⟩ := execMoment_next m s
    rw [runMoments_cons hu]
    cases hm : isUnit .f m with
    | true =>
      rw [List.filter_cons_of_neg (by simp [hm])]
      exact ih ((execMoment_of_isUnit_f hm hu).trans h)
    | false =>
      obtain ⟨u', hu', -⟩ := execMoment_next m s'
      rw [List.filter_cons_of_pos (by simp [hm]), runMoments_cons hu']
      exact ih (by rw [execMoment_gcrc hu, execMoment_gcrc hu', h])

/-- Settles O37: a simulation in each direction, moment by moment. -/
theorem unitsDoNotInterfere : Obligations.UnitsDoNotInterfere := by
  refine ⟨fun ms s s' h => runMoments_without_unitG ms h, fun ms s s' h => ?_⟩
  obtain ⟨t, t', ht, ht', hgcrc⟩ := runMoments_without_unitF ms (agreeOn_g_iff.mp h)
  exact ⟨t, t', ht, ht', agreeOn_g_iff.mpr hgcrc⟩

/-! ### Incremental intake (R85) -/

theorem runMoments_agreeOn_f (ms : List Moment) {s s' t t' : State} (h : AgreeOn .f s s')
    (ht : runMoments ms s = .next t) (ht' : runMoments ms s' = .next t') : AgreeOn .f t t' := by
  induction ms generalizing s s' with
  | nil => cases ht; cases ht'; exact h
  | cons m ms ih =>
    obtain ⟨u, hu, -⟩ := execMoment_next m s
    obtain ⟨u', hu', -⟩ := execMoment_next m s'
    rw [runMoments_cons hu] at ht
    rw [runMoments_cons hu'] at ht'
    exact ih (execMoment_agreeOn_f h hu hu').1 ht ht'

/-- Settles O50: `FARM` leaves every state the same in unit F, and from there on both runs are one sequence. -/
theorem incrementalIntakeEqualsReparsing : Obligations.IncrementalIntakeEqualsReparsing := by
  intro first second s s'
  obtain ⟨t, ht, -⟩ := runMoments_next ((Instr.farm :: first).map issue) s
  obtain ⟨u, hu, -⟩ := runMoments_next (second.map issue) t
  obtain ⟨u', hu', -⟩ := runMoments_next ((Instr.farm :: (first ++ second)).map issue) s'
  refine ⟨t, u, u', ht, hu, hu', ?_⟩
  have hwhole := (runMoments_append ht (second.map issue)).trans hu
  rw [← List.map_append, List.cons_append, runMoments_issue (exec_farm s)] at hwhole
  rw [runMoments_issue (exec_farm s')] at hu'
  have harmed : AgreeOn .f (accept (armF s)) (accept (armF s')) :=
    (agreeOn_f_accept_armF_reset s).trans (agreeOn_f_accept_armF_reset s').symm
  exact runMoments_agreeOn_f _ harmed hwhole hu'

end Sys2Proof.Machine

/-! PROOFS. The family `other`: what a step may change (R13, R21, R99) and what every step keeps (R29). -/

namespace Sys2Proof.Machine

section
variable {m : Moment} {i : Instr} {d : Byte} {r : Reg} {s t : State}

/-! ### The writers of a register (R13) -/

theorem mayWrite_of_reset (he : eventOf m = some .reset) (p : Phase) : mayWrite r m p = true := if_pos he

/-- R13: an `FBYTE` writes the registers of its phase's field, and the position. -/
theorem mayWrite_of_fbyte (hi : instrOf m = some (.fbyte d))
    (h : exec (.fbyte d) s = .next t) (hne : readReg t r ≠ readReg s r) : mayWrite r m s.phase = true := by
  have he := eventOf_ne_reset hi
  rcases exec_fbyte_phase d s with ⟨hp, hx⟩ | ⟨hp, hx⟩ | ⟨hp, hx⟩ | ⟨hp, hx⟩ | ⟨_, hx⟩ <;> rw [hx] at h <;> cases h
  · rcases fbytePre_cases d s with ⟨_, e⟩ | ⟨_, _, e⟩ | ⟨_, _, e⟩ <;> rw [e] at hne
    all_goals cases r with
      | phase | idx | err | pre => simp [mayWrite, he, hi, hp]
      | _ => exact absurd rfl hne
  · rcases fbyteLen_cases d s with ⟨_, e⟩ | ⟨_, e⟩ <;> rw [e] at hne
    all_goals cases r with
      | phase | idx | err | len => simp [mayWrite, he, hi, hp]
      | _ => exact absurd rfl hne
  · cases r with
    | cnt | ovf | fcrc => simp [mayWrite, he, hi, hp]
    | _ => exact absurd rfl hne
  · rcases fbyteCk_cases d s with ⟨_, e⟩ | ⟨_, _, e⟩ | ⟨_, _, e⟩ <;> rw [e] at hne
    all_goals cases r with
      | phase | idx | err | rxck => simp [mayWrite, he, hi, hp]
      | _ => exact absurd rfl hne
  · exact absurd (sameRegs_withAccPort s _ _ r).symm hne

/-- R13: an `FSPANEND` writes the position. -/
theorem mayWrite_of_fspanend (hi : instrOf m = some .fspanend)
    (h : exec .fspanend s = .next t) (hne : readReg t r ≠ readReg s r) : mayWrite r m s.phase = true := by
  have he := eventOf_ne_reset hi
  rcases exec_fspanend_phase s with ⟨_, hx⟩ | ⟨_, hx⟩ <;> rw [hx] at h <;> cases h
  · rcases spanEnd_cases s with ⟨_, _, e⟩ | ⟨_, e⟩ <;> rw [e] at hne
    all_goals cases r with
      | phase | idx | err => simp [mayWrite, he, hi]
      | _ => exact absurd rfl hne
  · exact absurd (sameRegs_withAccPort s _ _ r).symm hne

theorem mayWrite_of_readReg_ne (h : execMoment m s = .next t) (hne : readReg t r ≠ readReg s r) :
    mayWrite r m s.phase = true := by
  rcases execMoment_cases m with ⟨_, _, hx⟩ | ⟨he, _, _⟩ | ⟨_, _, hx⟩ | ⟨i, he, hi, hx⟩
  · cases (hx s).symm.trans h
    exact absurd (sameRegs_withAccPort s _ _ r).symm hne
  · exact mayWrite_of_reset he s.phase
  · cases (hx s).symm.trans h
    exact absurd (sameRegs_withAccPort s _ _ r).symm hne
  · rw [hx] at h
    cases i with
    | nop =>
      cases h
      exact absurd (sameRegs_withAccPort s _ _ r).symm hne
    | ginit | gbyte d =>
      cases h
      cases r with
      | gcrc => simp [mayWrite, he, hi]
      | _ => exact absurd rfl hne
    | farm =>
      cases h
      cases r with
      | gcrc => exact absurd rfl hne
      | _ => simp [mayWrite, he, hi, regUnit]
    | fbyte d => exact mayWrite_of_fbyte hi h hne
    | fspanend => exact mayWrite_of_fspanend hi h hne

end

/-- Settles O39: the table is complete, and `mayWrite_of_readReg_ne` is its last column. -/
theorem registersAreWrittenOnlyByTheirWriters : Obligations.RegistersAreWrittenOnlyByTheirWriters := by
  refine ⟨rfl, by decide, fun r => by cases r <;> decide, readReg_reset, fun s m => ?_⟩
  obtain ⟨t, ht, -⟩ := execMoment_next m s
  exact ⟨t, ht, fun r hne => mayWrite_of_readReg_ne ht hne⟩

/-! ### The position (R21) -/

section
variable {m : Moment} {i : Instr} {d : Byte} {s t : State}

theorem arms_of_instrOf (hi : instrOf m = some i) : arms m = true ↔ i = .farm := by
  simp [arms, eventOf_ne_reset hi, hi]

theorem exec_fbyte_positionRank (h : exec (.fbyte d) s = .next t) : positionRank s ≤ positionRank t := by
  rcases exec_fbyte_phase d s with ⟨hp, hx⟩ | ⟨hp, hx⟩ | ⟨hp, hx⟩ | ⟨hp, hx⟩ | ⟨_, hx⟩ <;> rw [hx] at h <;> cases h
  · rcases fbytePre_cases d s with ⟨hi, e⟩ | ⟨hi, _, e⟩ | ⟨hi, _, e⟩ <;>
      simp only [positionRank, accept_phase, accept_idx, e, hp]
    · bv_omega
    · bv_omega
    · bv_omega
  · rcases fbyteLen_cases d s with ⟨hi, e⟩ | ⟨hi, e⟩ <;> simp only [positionRank, accept_phase, accept_idx, e, hp]
    · bv_omega
    · bv_omega
  · simp only [positionRank, accept_phase, fbyteSpan, hp, le_refl]
  · rcases fbyteCk_cases d s with ⟨hi, e⟩ | ⟨hi, _, e⟩ | ⟨hi, _, e⟩ <;>
      simp only [positionRank, accept_phase, accept_idx, e, hp]
    · bv_omega
    · bv_omega
    · bv_omega
  · exact le_refl _

theorem exec_fspanend_positionRank (h : exec .fspanend s = .next t) : positionRank s ≤ positionRank t := by
  rcases exec_fspanend_phase s with ⟨hp, hx⟩ | ⟨_, hx⟩ <;> rw [hx] at h <;> cases h
  · rcases spanEnd_cases s with ⟨_, _, e⟩ | ⟨_, e⟩ <;> simp [positionRank, e, hp]
  · exact le_refl _

theorem positionRank_congr (h : AgreeOn .f s t) : positionRank s = positionRank t := by
  rw [h.eq_unitFFrom]
  rfl

/-- What a moment that does not arm can do to unit F. -/
theorem execMoment_cases_of_not_arms (ha : arms m = false) (h : execMoment m s = .next t) :
    (isUnit .f m = false ∧ AgreeOn .f s t) ∨
    (∃ d, instrOf m = some (.fbyte d) ∧ exec (.fbyte d) s = .next t) ∨
    (instrOf m = some .fspanend ∧ exec .fspanend s = .next t) := by
  rcases execMoment_cases m with ⟨_, hi, hx⟩ | ⟨he, _, hx⟩ | ⟨_, hi, hx⟩ | ⟨i, _, hi, hx⟩ <;> rw [hx] at h
  · cases h
    exact .inl ⟨by simp [isUnit, hi], agreeOn_f_unitFFrom s _⟩
  · simp [arms, he] at ha
  · cases h
    exact .inl ⟨by simp [isUnit, hi], agreeOn_f_unitFFrom s _⟩
  · cases i with
    | nop | ginit | gbyte d =>
      cases h
      exact .inl ⟨by simp [isUnit, hi, unitOf], agreeOn_f_unitFFrom s _⟩
    | farm => simp [arms, hi] at ha
    | fbyte d => exact .inr (.inl ⟨d, hi, h⟩)
    | fspanend => exact .inr (.inr ⟨hi, h⟩)

theorem execMoment_positionRank (h : execMoment m s = .next t) (ha : arms m = false) :
    positionRank s ≤ positionRank t := by
  rcases execMoment_cases_of_not_arms ha h with ⟨_, hsame⟩ | ⟨d, _, hx⟩ | ⟨_, hx⟩
  · exact (positionRank_congr hsame).le
  · exact exec_fbyte_positionRank hx
  · exact exec_fspanend_positionRank hx

/-- R21, R74, R108: an arming moment leads to `(PRE, 0)`. -/
theorem execMoment_of_arms (h : execMoment m s = .next t) (ha : arms m = true) : t.phase = .pre ∧ t.idx = 0#2 := by
  rcases execMoment_cases m with ⟨he, hi, _⟩ | ⟨_, _, hx⟩ | ⟨he, hi, _⟩ | ⟨i, _, hi, hx⟩
  · simp [arms, he, hi] at ha
  · cases (hx s).symm.trans h
    exact ⟨rfl, rfl⟩
  · simp [arms, he, hi] at ha
  · obtain rfl := (arms_of_instrOf hi).mp ha
    cases (hx s).symm.trans h
    exact ⟨rfl, rfl⟩

end

/-- Settles O43: the position never goes back in any state, so in none of the invariants. -/
theorem positionNeverGoesBack : Obligations.PositionNeverGoesBack := by
  intro s m _
  obtain ⟨t, ht, -⟩ := execMoment_next m s
  exact ⟨t, ht, execMoment_positionRank ht, execMoment_of_arms ht⟩

/-! ### After the verdict (R99, R100) -/

section
variable {m : Moment} {s t : State}

theorem Final.congr (h : AgreeOn .f s t) (hs : Final s) : Final t := by
  rw [h.eq_unitFFrom]
  exact hs

/-- R80, R100: after the verdict a moment takes no byte. -/
theorem takenByte_of_final (hs : Final s) (h : execMoment m s = .next t) : takenByte m t = [] := by
  cases hi : instrOf m with
  | none => simp [takenByte, hi]
  | some i =>
    rw [execMoment_of_instrOf hi] at h
    cases i with
    | fbyte d =>
      cases (exec_fbyte_of_final d hs).symm.trans h
      simp [takenByte, hi]
    | _ => simp [takenByte, hi]

theorem execMoment_of_final (hs : Final s) (ha : arms m = false) (h : execMoment m s = .next t) : AgreeOn .f s t := by
  rcases execMoment_cases_of_not_arms ha h with ⟨_, hsame⟩ | ⟨d, _, hx⟩ | ⟨_, hx⟩
  · exact hsame
  · cases (exec_fbyte_of_final d hs).symm.trans hx
    exact agreeOn_f_unitFFrom s _
  · have hp : s.phase ≠ .span := by rcases hs with hp | hp <;> simp [hp]
    cases (exec_fspanend_of_ne_span hp).symm.trans hx
    exact agreeOn_f_unitFFrom s _

end

/-- R99, R100: what moments that do not arm do after the verdict. -/
theorem runMoments_of_final (ms : List Moment) {s : State} (hs : Final s) (hms : ∀ m ∈ ms, arms m = false) :
    ∃ t, runMoments ms s = .next t ∧ AgreeOn .f s t ∧ acceptedBytes ms s = [] := by
  induction ms generalizing s with
  | nil => exact ⟨s, rfl, fun _ _ => rfl, rfl⟩
  | cons m ms ih =>
    obtain ⟨ha, hms⟩ := List.forall_mem_cons.mp hms
    obtain ⟨u, hu, -⟩ := execMoment_next m s
    have hsu := execMoment_of_final hs ha hu
    obtain ⟨t, ht, hut, hbytes⟩ := ih (hs.congr hsu) hms
    refine ⟨t, (runMoments_cons hu ms).trans ht, hsu.trans hut, ?_⟩
    rw [acceptedBytes_cons hu, takenByte_of_final hs hu, hbytes]
    rfl

/-- Settles O42: each moment leaves unit F as it is, and so final. -/
theorem verdictIsFrozenUntilTheNextArm : Obligations.VerdictIsFrozenUntilTheNextArm :=
  fun ms _ hs hms => runMoments_of_final ms hs hms

/-! ### The invariants (R29) -/

section
variable {m : Moment} {d : Byte} {s t : State}

/-- R29 speaks of unit F alone. -/
theorem Invariants.congr (h : AgreeOn .f s t) (hinv : Invariants s) : Invariants t := by
  rw [h.eq_unitFFrom]
  exact hinv

theorem Invariants.fbytePre (hinv : Invariants s) (hp : s.phase = .pre) : Invariants (fbytePre d s) := by
  simp only [Invariants, hp] at hinv
  obtain ⟨herr, hpre, hregs⟩ := hinv
  rcases fbytePre_cases d s with ⟨hi, e⟩ | ⟨_, h0, e⟩ | ⟨_, h0, e⟩ <;> rw [e] <;> simp only [Invariants, hp]
  · exact ⟨herr, shiftIn_bound hpre hi d, hregs⟩
  · obtain ⟨hlen, hregs⟩ := hregs
    exact ⟨herr, h0, by simp [hlen], hregs⟩
  · exact ⟨rfl, h0, hregs⟩

theorem Invariants.fbyteLen (hinv : Invariants s) (hp : s.phase = .len) : Invariants (fbyteLen d s) := by
  simp only [Invariants, hp] at hinv
  obtain ⟨herr, hpre, hlen, hcnt, hovf, hfcrc, hrxck⟩ := hinv
  rcases fbyteLen_cases d s with ⟨hi, e⟩ | ⟨_, e⟩ <;> rw [e] <;> simp only [Invariants, hp]
  · exact ⟨herr, hpre, shiftIn_bound hlen hi d, hcnt, hovf, hfcrc, hrxck⟩
  · exact ⟨herr, hpre, rfl, hrxck, [], hfcrc, hcnt, by simp [hovf]⟩

theorem Invariants.fbyteSpan (hinv : Invariants s) (hp : s.phase = .span) : Invariants (fbyteSpan d s) := by
  simp only [Invariants, hp] at hinv
  obtain ⟨herr, hpre, hidx, hrxck, span, hspan⟩ := hinv
  have hphase : (Machine.fbyteSpan d s).phase = .span := hp
  simp only [Invariants, hphase]
  exact ⟨herr, hpre, hidx, hrxck, span ++ [d], countsSpan_snoc hspan d⟩

theorem extractLsb'_withHighByte (r : Crc) (d : Byte) : (withHighByte r d).extractLsb' 0 8 = r.extractLsb' 0 8 :=
  BitVec.extractLsb'_append_eq_right

theorem Invariants.fbyteCk (hinv : Invariants s) (hp : s.phase = .ck) : Invariants (fbyteCk d s) := by
  simp only [Invariants, hp] at hinv
  obtain ⟨herr, hpre, hovf, hcnt, _, hlow, _, hspan⟩ := hinv
  rcases fbyteCk_cases d s with ⟨_, e⟩ | ⟨_, hr, e⟩ | ⟨_, hr, e⟩ <;> rw [e] <;> simp only [Invariants, hp]
  · exact ⟨herr, hpre, hovf, hcnt, by decide, (extractLsb'_withHighByte s.rxck d).trans hlow, nofun, hspan⟩
  · exact ⟨herr, hpre, hovf, hcnt, rfl, hr, hspan⟩
  · exact ⟨rfl, hpre, hovf, hcnt, hr, hspan⟩

theorem Invariants.spanEnd (hinv : Invariants s) (hp : s.phase = .span) : Invariants (spanEnd s) := by
  simp only [Invariants, hp] at hinv
  obtain ⟨herr, hpre, _, hrxck, hspan⟩ := hinv
  rcases spanEnd_cases s with ⟨hovf, hcnt, e⟩ | ⟨hne, e⟩ <;> rw [e] <;> simp only [Invariants]
  · exact ⟨herr, hpre, hovf, hcnt, by decide, by rw [hrxck]; rfl, fun _ => hrxck, hspan⟩
  · exact ⟨rfl, hpre, hrxck, hne, hspan⟩

theorem Invariants.exec {i : Instr} (hinv : Invariants s) (h : exec i s = .next t) : Invariants t := by
  cases i with
  | nop | ginit | gbyte d => cases h; exact hinv
  | farm => cases h; exact invariants_armF s
  | fbyte d =>
    rcases exec_fbyte_phase d s with ⟨hp, hx⟩ | ⟨hp, hx⟩ | ⟨hp, hx⟩ | ⟨hp, hx⟩ | ⟨_, hx⟩ <;> rw [hx] at h <;> cases h
    · exact hinv.fbytePre hp
    · exact hinv.fbyteLen hp
    · exact hinv.fbyteSpan hp
    · exact hinv.fbyteCk hp
    · exact hinv
  | fspanend =>
    rcases exec_fspanend_phase s with ⟨hp, hx⟩ | ⟨_, hx⟩ <;> rw [hx] at h <;> cases h
    · exact hinv.spanEnd hp
    · exact hinv

theorem Invariants.execMoment (hinv : Invariants s) (h : execMoment m s = .next t) : Invariants t := by
  rcases execMoment_cases m with ⟨_, _, hx⟩ | ⟨_, _, hx⟩ | ⟨_, _, hx⟩ | ⟨i, _, _, hx⟩ <;> rw [hx] at h
  · cases h; exact hinv
  · cases h; exact invariants_armF s
  · cases h; exact hinv
  · exact hinv.exec h

end

/-- Settles O48: a step executes one moment, and every operation keeps the invariants phase by phase. -/
theorem everyStepKeepsTheInvariants : Obligations.EveryStepKeepsTheInvariants := by
  intro s t hinv hstep
  have hafter : Invariants (afterMoment s) := hinv
  exact hafter.execMoment hstep

end Sys2Proof.Machine

/-! PROOFS. The family `other`: what unit F has taken since the arm, as the frame's fields with their bytes (R43, R84). Unit F's registers
are a function of it, which every operation but `FARM` follows; the statements about whole sequences are read off it. -/

namespace Sys2Proof.Machine

/-! ### Big-endian fields of any length (R44) -/

theorem beValue_snoc (bytes : List Byte) (d : Byte) : beValue (bytes ++ [d]) = beValue bytes * 256 + d.toNat := by
  simp [beValue]

theorem beValue_lt (bytes : List Byte) : beValue bytes < 256 ^ bytes.length := by
  induction bytes using List.reverseRecOn with
  | nil => decide
  | append_singleton bytes d ih =>
    have := d.isLt
    rw [beValue_snoc, List.length_append, List.length_singleton, pow_succ]
    omega

theorem eq_replicate_of_beValue_eq_zero {bytes : List Byte} (h : beValue bytes = 0) :
    bytes = List.replicate bytes.length 0x00#8 := by
  induction bytes using List.reverseRecOn with
  | nil => rfl
  | append_singleton bytes d ih =>
    rw [beValue_snoc] at h
    have hd : d = 0x00#8 := BitVec.eq_of_toNat_eq (by rw [BitVec.toNat_ofNat]; omega)
    rw [List.length_append, List.length_singleton, List.replicate_succ', ← ih (by omega), hd]

theorem shiftIn_be32Of (bytes : List Byte) (d : Byte) : shiftIn (be32Of bytes) d = be32Of (bytes ++ [d]) := by
  apply BitVec.eq_of_toNat_eq
  rw [shiftIn_toNat, be32Of, be32Of, BitVec.toNat_ofNat, BitVec.toNat_ofNat, beValue_snoc]
  omega

theorem be32Of_toNat {l : List Byte} (hl : l.length = 4) : (be32Of l).toNat = beValue l := by
  have := beValue_lt l
  rw [hl] at this
  rw [be32Of, BitVec.toNat_ofNat, Nat.mod_eq_of_lt (by omega)]

theorem be32Of_eq_zero_iff {l : List Byte} (hl : l.length = 4) : be32Of l = 0x00000000#32 ↔ beValue l = 0 := by
  rw [← BitVec.toNat_inj, be32Of_toNat hl, BitVec.toNat_ofNat, Nat.zero_mod]

theorem be32Of_four (a b c d : Byte) : be32Of [a, b, c, d] = be32 a b c d := by
  rw [← foldl_shiftIn_eq_be32 (be32Of [])]
  simp only [List.foldl_cons, List.foldl_nil, shiftIn_be32Of, List.nil_append, List.cons_append]

/-- The bytes of a 4-byte field can be read back from its register (R32). -/
theorem wireBytes32_be32Of {l : List Byte} (hl : l.length = 4) : wireBytes32 (be32Of l) = l := by
  obtain ⟨a, b, c, d, rfl⟩ := List.length_eq_four.mp hl
  rw [be32Of_four, ← foldl_shiftIn_eq_be32 0, wireBytes32_shiftIn]

theorem be32Of_wireBytes32 (v : Word32) : be32Of (wireBytes32 v) = v := by
  have := v.isLt
  apply BitVec.eq_of_toNat_eq
  rw [wireBytes32, be32Of_four, be32_toNat]
  simp only [BitVec.extractLsb'_toNat, Nat.shiftRight_eq_div_pow]
  omega

/-- The number of a checksum's bytes, as a checksum. -/
def be16Of (c : List Byte) : Crc := BitVec.ofNat 16 (beValue c)

theorem be16Of_two (x y : Byte) : be16Of [x, y] = be16 x y := by
  have := x.isLt
  have := y.isLt
  apply BitVec.eq_of_toNat_eq
  rw [be16_toNat, be16Of, BitVec.toNat_ofNat]
  simp [beValue]
  omega

theorem wireBytes16_be16Of {c : List Byte} (hc : c.length = 2) : wireBytes16 (be16Of c) = c := by
  obtain ⟨x, y, rfl⟩ := List.length_eq_two.mp hc
  obtain ⟨hy, hx⟩ := (eq_be16_iff (be16 x y) y x).mp rfl
  rw [be16Of_two, wireBytes16, ← hx, ← hy]

theorem be16Of_wireBytes16 (c : Crc) : be16Of (wireBytes16 c) = c := (be16Of_two _ _).trans (be16_highByte_lowByte c)

/-! ### The fields taken, and the registers that show them -/

/-- What unit F has taken since the arm: the field it stands in, or its verdict, with the bytes `p` of the preamble, `l` of the length,
`b` of the span and `c` of the checksum. The bytes of a preamble that holds are zero and are not kept. -/
inductive Intake where
  | preamble (p : List Byte)
  | length (l : List Byte)
  | span (l b : List Byte)
  | checksum (l b c : List Byte)
  | accepted (l b c : List Byte)
  | invalidPreamble (p : List Byte)
  | lengthMismatch (l b : List Byte)
  | checksumMismatch (l b c : List Byte)

/-- A preamble that holds (R43). -/
def zeroPreamble : List Byte := [0x00#8, 0x00#8, 0x00#8, 0x00#8]

/-- The registers of unit F once a length and a span are taken (R77, R78). -/
def counted (l b : List Byte) (r : State) : State :=
  { armF r with
    len := be32Of l, fcrc := crc16 b
    cnt := BitVec.ofNat 32 b.length, ovf := decide (2 ^ 32 ≤ b.length) }

namespace Intake

/-- The bytes taken, in order. -/
def bytes : Intake → List Byte
  | preamble p => p
  | length l => zeroPreamble ++ l
  | span l b => zeroPreamble ++ l ++ b
  | checksum l b c => zeroPreamble ++ l ++ b ++ c
  | accepted l b c => zeroPreamble ++ l ++ b ++ c
  | invalidPreamble p => p
  | lengthMismatch l b => zeroPreamble ++ l ++ b
  | checksumMismatch l b c => zeroPreamble ++ l ++ b ++ c

/-- Every field has the bytes of its width (R43), and each comparison came out as the intake says (R76, R79, R81). -/
def Wf : Intake → Prop
  | preamble p => p.length < 4
  | length l => l.length < 4
  | span l _ => l.length = 4
  | checksum l b c => l.length = 4 ∧ b.length = beValue l ∧ c.length < 2
  | accepted l b c => l.length = 4 ∧ b.length = beValue l ∧ c.length = 2 ∧ be16Of c = crc16 b
  | invalidPreamble p => p.length = 4 ∧ beValue p ≠ 0
  | lengthMismatch l b => l.length = 4 ∧ b.length ≠ beValue l
  | checksumMismatch l b c => l.length = 4 ∧ b.length = beValue l ∧ c.length = 2 ∧ be16Of c ≠ crc16 b

/-- The registers of unit F that show the intake; all else as in `r`. -/
def regs (r : State) : Intake → State
  | preamble p => { armF r with idx := BitVec.ofNat 2 p.length, pre := be32Of p }
  | length l => { armF r with phase := .len, idx := BitVec.ofNat 2 l.length, len := be32Of l }
  | span l b => { counted l b r with phase := .span }
  | checksum l b c =>
    { counted l b r with phase := .ck, idx := BitVec.ofNat 2 c.length, rxck := BitVec.ofNat 16 (beValue c * 256) }
  | accepted l b c => { counted l b r with phase := .ok, rxck := be16Of c }
  | invalidPreamble p => { armF r with phase := .err, err := .fatal .invalidPreamble, pre := be32Of p }
  | lengthMismatch l b => { counted l b r with phase := .err, err := .fatal .lengthMismatch }
  | checksumMismatch l b c => { counted l b r with phase := .err, err := .fatal .checksumMismatch, rxck := be16Of c }

/-- The comparison of the checksum's two bytes (R79). -/
def judge (l b c : List Byte) : Intake := if be16Of c = crc16 b then accepted l b c else checksumMismatch l b c

/-- One more byte (R75 to R80). -/
def take (q : Intake) (d : Byte) : Intake :=
  match q with
  | preamble p =>
    if p.length < 3 then preamble (p ++ [d])
    else if beValue (p ++ [d]) = 0 then length [] else invalidPreamble (p ++ [d])
  | length l => if l.length < 3 then length (l ++ [d]) else span (l ++ [d]) []
  | span l b => span l (b ++ [d])
  | checksum l b c => if c.length < 1 then checksum l b (c ++ [d]) else judge l b (c ++ [d])
  | q => q

/-- The end of the span (R81, R82). -/
def mark : Intake → Intake
  | span l b => if b.length = beValue l then checksum l b [] else lengthMismatch l b
  | q => q

/-- One operation that does not arm: those of unit F move the intake. -/
def op (q : Intake) : Instr → Intake
  | .fbyte d => q.take d
  | .fspanend => q.mark
  | _ => q

/-- One moment that does not arm. -/
def moment (q : Intake) (m : Moment) : Intake :=
  match instrOf m with
  | some i => q.op i
  | none => q

/-- The byte is taken: no verdict is given yet (R75). -/
def isOpen : Intake → Bool
  | preamble _ => true
  | length _ => true
  | span _ _ => true
  | checksum _ _ _ => true
  | accepted _ _ _ => false
  | invalidPreamble _ => false
  | lengthMismatch _ _ => false
  | checksumMismatch _ _ _ => false

/-- The phase that shows the intake (R15). -/
def phase : Intake → Phase
  | preamble _ => .pre
  | length _ => .len
  | span _ _ => .span
  | checksum _ _ _ => .ck
  | accepted _ _ _ => .ok
  | invalidPreamble _ => .err
  | lengthMismatch _ _ => .err
  | checksumMismatch _ _ _ => .err

/-! ### An operation keeps the intake well-formed, and adds the byte it takes -/

section
variable {q : Intake} {d : Byte}

theorem length_snoc (x : List Byte) (d : Byte) : (x ++ [d]).length = x.length + 1 := List.length_append

theorem wf_judge {l b c : List Byte} (hl : l.length = 4) (hb : b.length = beValue l) (hc : c.length = 2) :
    (judge l b c).Wf := by
  rw [judge]
  split_ifs with heq
  · exact ⟨hl, hb, hc, heq⟩
  · exact ⟨hl, hb, hc, heq⟩

theorem Wf.take (hq : q.Wf) : (q.take d).Wf := by
  cases q with
  | preamble p =>
    simp only [Wf, Intake.take] at hq ⊢
    split_ifs with h3 h0
    · exact (length_snoc p d).trans_lt (by omega)
    · exact Nat.succ_pos 3
    · exact ⟨(length_snoc p d).trans (by omega), h0⟩
  | length l =>
    simp only [Wf, Intake.take] at hq ⊢
    split_ifs with h3
    · exact (length_snoc l d).trans_lt (by omega)
    · exact (length_snoc l d).trans (by omega)
  | span l b => exact hq
  | checksum l b c =>
    obtain ⟨hl, hb, hc⟩ := hq
    rw [Intake.take]
    split_ifs with h1
    · exact ⟨hl, hb, (length_snoc c d).trans_lt (by omega)⟩
    · exact wf_judge hl hb ((length_snoc c d).trans (by omega))
  | _ => exact hq

theorem Wf.mark (hq : q.Wf) : q.mark.Wf := by
  cases q with
  | span l b =>
    rw [Intake.mark]
    split_ifs with hb
    · exact ⟨hq, hb, by simp⟩
    · exact ⟨hq, hb⟩
  | _ => exact hq

theorem bytes_judge (l b c : List Byte) : (judge l b c).bytes = zeroPreamble ++ l ++ b ++ c := by
  rw [judge]
  split_ifs <;> rfl

theorem bytes_take (hq : q.Wf) : (q.take d).bytes = q.bytes ++ if q.isOpen then [d] else [] := by
  cases q with
  | preamble p =>
    simp only [Intake.take, isOpen, if_true]
    split_ifs with h3 h0
    · rfl
    · have hp : (p ++ [d]).length = 4 := by simp [Wf] at hq ⊢; omega
      have hzero := eq_replicate_of_beValue_eq_zero h0
      rw [hp] at hzero
      exact hzero.symm
    · rfl
  | length l =>
    simp only [Intake.take, isOpen, if_true]
    split_ifs <;> simp [bytes]
  | span l b => simp [Intake.take, isOpen, bytes]
  | checksum l b c =>
    simp only [Intake.take, isOpen, if_true]
    split_ifs
    · simp [bytes]
    · exact (bytes_judge l b _).trans (by simp [bytes])
  | _ => exact (List.append_nil _).symm

theorem bytes_mark : q.mark.bytes = q.bytes := by
  cases q with
  | span l b =>
    rw [Intake.mark]
    split_ifs <;> simp [bytes]
  | _ => rfl

end

/-! ### The registers follow -/

section
variable (q : Intake) (d : Byte) (r : State)

@[simp] theorem regs_gcrc : (q.regs r).gcrc = r.gcrc := by cases q <;> rfl
@[simp] theorem regs_phase : (q.regs r).phase = q.phase := by cases q <;> rfl
@[simp] theorem regs_acc : (q.regs r).acc = r.acc := by cases q <;> rfl

theorem unitFFrom_regs (t : State) : unitFFrom (q.regs r) t = q.regs t := by cases q <;> rfl

theorem accept_regs : accept (q.regs r) = q.regs (accept r) := by cases q <;> rfl

theorem refuse_regs : refuse (q.regs r) = q.regs (refuse r) := by cases q <;> rfl

theorem final_regs_of_isOpen_eq_false {q : Intake} (h : q.isOpen = false) : Final (q.regs r) := by
  cases q with
  | accepted l b c => exact .inl rfl
  | invalidPreamble p => exact .inr rfl
  | lengthMismatch l b => exact .inr rfl
  | checksumMismatch l b c => exact .inr rfl
  | _ => cases h

end

/-- The two bits of `idx` count to three (R16). -/
theorem ofNat_eq_three_iff {n : Nat} (hn : n < 4) : BitVec.ofNat 2 n = 3#2 ↔ ¬ n < 3 := by
  rw [← BitVec.toNat_inj, BitVec.toNat_ofNat, BitVec.toNat_ofNat]
  omega

theorem ofNat_length_snoc {w : Nat} (bytes : List Byte) (d : Byte) :
    BitVec.ofNat w bytes.length + 1#w = BitVec.ofNat w (bytes ++ [d]).length := by
  rw [length_snoc, BitVec.ofNat_add]

section
variable (d : Byte) (r : State)

/-- R76: a byte in the preamble. -/
theorem fbytePre_regs {p : List Byte} (hp : p.length < 4) :
    fbytePre d ((preamble p).regs r) = ((preamble p).take d).regs r := by
  have hpre : shiftIn ((preamble p).regs r).pre d = be32Of (p ++ [d]) := shiftIn_be32Of p d
  have hidx : ((preamble p).regs r).idx = 3#2 ↔ ¬ p.length < 3 := ofNat_eq_three_iff hp
  have hzero (h : ¬ p.length < 3) : be32Of (p ++ [d]) = 0#32 ↔ beValue (p ++ [d]) = 0 :=
    be32Of_eq_zero_iff ((length_snoc p d).trans (by omega))
  rcases fbytePre_cases d ((preamble p).regs r) with ⟨hi, e⟩ | ⟨hi, h0, e⟩ | ⟨hi, h0, e⟩ <;> rw [e, hpre]
  · rw [ne_eq, hidx, not_not] at hi
    rw [Intake.take, if_pos hi, regs, regs, ← ofNat_length_snoc]
  · rw [hidx] at hi
    rw [hpre] at h0
    rw [Intake.take, if_neg hi, if_pos ((hzero hi).mp h0), h0]
    rfl
  · rw [hidx] at hi
    rw [hpre, ne_eq, hzero hi] at h0
    rw [Intake.take, if_neg hi, if_neg h0]
    rfl

/-- R77: a byte in the length. -/
theorem fbyteLen_regs {l : List Byte} (hl : l.length < 4) :
    fbyteLen d ((length l).regs r) = ((length l).take d).regs r := by
  have hlen : shiftIn ((length l).regs r).len d = be32Of (l ++ [d]) := shiftIn_be32Of l d
  have hidx : ((length l).regs r).idx = 3#2 ↔ ¬ l.length < 3 := ofNat_eq_three_iff hl
  rcases fbyteLen_cases d ((length l).regs r) with ⟨hi, e⟩ | ⟨hi, e⟩ <;> rw [e, hlen]
  · rw [ne_eq, hidx, not_not] at hi
    rw [Intake.take, if_pos hi, regs, regs, ← ofNat_length_snoc]
  · rw [hidx] at hi
    rw [Intake.take, if_neg hi]
    rfl

/-- R20, R78: the counter is at its largest value just before the span reaches a multiple of 2^32 bytes. -/
theorem ovfNext_length (b : List Byte) :
    ovfNext (decide (2 ^ 32 ≤ b.length)) (BitVec.ofNat 32 b.length) = decide (2 ^ 32 ≤ (b ++ [d]).length) := by
  have hwrap : BitVec.ofNat 32 b.length = 0xFFFFFFFF#32 ↔ b.length % 2 ^ 32 = 2 ^ 32 - 1 := by
    rw [← BitVec.toNat_inj, BitVec.toNat_ofNat]
    rfl
  rw [Bool.eq_iff_iff, ovfNext_eq_true_iff, hwrap, decide_eq_true_iff, decide_eq_true_iff, length_snoc]
  omega

/-- R78: a byte in the span. -/
theorem fbyteSpan_regs (l b : List Byte) : fbyteSpan d ((span l b).regs r) = ((span l b).take d).regs r := by
  have hcrc : crcUpdate (crc16 b) d = crc16 (b ++ [d]) := (crc16_snoc b d).symm
  simp only [Intake.take, regs, counted, ← ovfNext_length, ← ofNat_length_snoc, ← hcrc]
  rfl

/-- R79: the checksum's first byte, alone in its register. -/
theorem ofNat_beValue_singleton (x : Byte) : BitVec.ofNat 16 (beValue [x] * 256) = be16 x 0x00#8 := by
  have := x.isLt
  apply BitVec.eq_of_toNat_eq
  rw [be16_toNat, BitVec.toNat_ofNat]
  simp [beValue]
  omega

/-- R79: a byte in the checksum. -/
theorem fbyteCk_regs {l b c : List Byte} (hc : c.length < 2) :
    fbyteCk d ((checksum l b c).regs r) = ((checksum l b c).take d).regs r := by
  match c, hc with
  | [], _ =>
    have htake : (checksum l b []).take d = checksum l b [d] := rfl
    rw [fbyteCk_of_idx_zero d rfl, htake, regs, regs, ofNat_beValue_singleton]
    rfl
  | [x], _ =>
    have htake : (checksum l b [x]).take d = judge l b [x, d] := rfl
    have hrxck : withLowByte ((checksum l b [x]).regs r).rxck d = be16Of [x, d] := by
      rw [be16Of_two, show ((checksum l b [x]).regs r).rxck = be16 x 0x00#8 from ofNat_beValue_singleton x]
      exact withLowByte_withHighByte 0x0000#16 x d
    have hfcrc : ((checksum l b [x]).regs r).fcrc = crc16 b := rfl
    rw [htake]
    rcases fbyteCk_cases d ((checksum l b [x]).regs r) with ⟨hi, _⟩ | ⟨_, hr, e⟩ | ⟨_, hr, e⟩
    · exact absurd hi (show (1#2) ≠ 0#2 by decide)
    · rw [hrxck] at e
      rw [hrxck, hfcrc] at hr
      rw [e, judge, if_pos hr]
      rfl
    · rw [hrxck] at e
      rw [hrxck, hfcrc] at hr
      rw [e, judge, if_neg hr]
      rfl

/-- R81: the length check on the full count is the comparison of the numbers. -/
theorem counted_matches_iff {l b : List Byte} (hl : l.length = 4) :
    ((counted l b r).ovf = false ∧ (counted l b r).cnt = (counted l b r).len) ↔ b.length = beValue l := by
  have hlt := beValue_lt l
  rw [hl] at hlt
  have hcnt : (counted l b r).cnt = (counted l b r).len ↔ b.length % 2 ^ 32 = beValue l := by
    rw [← BitVec.toNat_inj, ← be32Of_toNat hl]
    exact Iff.rfl
  rw [hcnt]
  simp only [counted, decide_eq_false_iff_not]
  omega

theorem spanEnd_regs {l b : List Byte} (hl : l.length = 4) : spanEnd ((span l b).regs r) = ((span l b).mark).regs r := by
  have hmatch := counted_matches_iff r (b := b) hl
  rcases spanEnd_cases ((span l b).regs r) with ⟨hovf, hcnt, e⟩ | ⟨hne, e⟩ <;> rw [e, Intake.mark]
  · rw [if_pos (hmatch.mp ⟨hovf, hcnt⟩)]
    rfl
  · rw [if_neg]
    · rfl
    · intro hb
      obtain ⟨hovf, hcnt⟩ := hmatch.mpr hb
      rcases hne with hne | hne
      · exact absurd hne (by rw [show ((span l b).regs r).ovf = false from hovf]; decide)
      · exact hne hcnt

end

section
variable {q : Intake}

/-- R75 to R80: `FBYTE` takes the byte. -/
theorem exec_fbyte_regs (hq : q.Wf) (d : Byte) (r : State) :
    exec (.fbyte d) (q.regs r) = .next ((q.take d).regs { r with acc := some q.isOpen }) := by
  cases q with
  | preamble p => rw [exec_fbyte_of_pre d rfl, fbytePre_regs d r hq, accept_regs]; rfl
  | length l => rw [exec_fbyte_of_len d rfl, fbyteLen_regs d r hq, accept_regs]; rfl
  | span l b => rw [exec_fbyte_of_span d rfl, fbyteSpan_regs d r l b, accept_regs]; rfl
  | checksum l b c =>
    obtain ⟨-, -, hc⟩ := hq
    rw [exec_fbyte_of_ck d rfl, fbyteCk_regs d r hc, accept_regs]
    rfl
  | _ => rw [exec_fbyte_of_final d (final_regs_of_isOpen_eq_false r rfl), refuse_regs]; rfl

/-- R81, R82: `FSPANEND` marks the end of the span. -/
theorem exec_fspanend_regs (hq : q.Wf) (r : State) :
    ∃ a, exec .fspanend (q.regs r) = .next (q.mark.regs { r with acc := a }) := by
  cases q with
  | span l b => exact ⟨some true, by rw [exec_fspanend_of_span rfl, spanEnd_regs r hq, accept_regs]; rfl⟩
  | _ => exact ⟨some false, by rw [exec_fspanend_of_ne_span (by simp [phase]), refuse_regs]; rfl⟩

end

/-! ### A sequence of moments that does not arm -/

theorem regs_of_agreeOn {q : Intake} {r t : State} (h : AgreeOn .f (q.regs r) t) : t = q.regs t :=
  h.eq_unitFFrom.trans (unitFFrom_regs q r t)

theorem regs_eq_regs_regs (q : Intake) (r : State) : q.regs r = q.regs (q.regs r) := regs_of_agreeOn fun _ _ => rfl

section
variable {q : Intake} {m : Moment} {r t : State}

theorem takenByte_of_ne_fbyte (h : ∀ d, instrOf m ≠ some (.fbyte d)) (t : State) : takenByte m t = [] := by
  unfold takenByte
  split
  · exact absurd ‹_› (h _)
  · rfl

theorem takenByte_of_isUnit_f_eq_false (h : isUnit .f m = false) (t : State) : takenByte m t = [] :=
  takenByte_of_ne_fbyte (fun d hi => by simp [isUnit, hi, unitOf] at h) t

theorem moment_of_isUnit_f_eq_false (h : isUnit .f m = false) : q.moment m = q := by
  cases hi : instrOf m with
  | none => rw [moment, hi]
  | some i =>
    rw [moment, hi]
    cases i with
    | fbyte d | fspanend => simp [isUnit, hi, unitOf] at h
    | _ => rfl

/-- One moment that does not arm: the registers show the intake after it, which has the byte taken, if any. -/
theorem execMoment_regs (hq : q.Wf) (ha : arms m = false) (h : execMoment m (q.regs r) = .next t) :
    t = (q.moment m).regs t ∧ (q.moment m).Wf ∧ (q.moment m).bytes = q.bytes ++ takenByte m t := by
  rcases execMoment_cases_of_not_arms ha h with ⟨hu, hsame⟩ | ⟨d, hi, hx⟩ | ⟨hi, hx⟩
  · rw [moment_of_isUnit_f_eq_false hu, takenByte_of_isUnit_f_eq_false hu, List.append_nil]
    exact ⟨regs_of_agreeOn hsame, hq, rfl⟩
  · have hmoment : q.moment m = q.take d := by rw [moment, hi]; rfl
    cases (exec_fbyte_regs hq d r).symm.trans hx
    rw [hmoment]
    refine ⟨regs_eq_regs_regs _ _, hq.take, ?_⟩
    rw [bytes_take hq, takenByte, hi, regs_acc]
    cases q.isOpen <;> rfl
  · have hmoment : q.moment m = q.mark := by rw [moment, hi]; rfl
    have hnone : takenByte m t = [] := takenByte_of_ne_fbyte (by simp [hi]) t
    obtain ⟨a, ha⟩ := exec_fspanend_regs hq r
    cases ha.symm.trans hx
    rw [hmoment, hnone, List.append_nil]
    exact ⟨regs_eq_regs_regs _ _, hq.mark, bytes_mark⟩

/-- Any number of moments that do not arm: the registers show the intake, and its bytes are those accepted. -/
theorem runMoments_regs (ms : List Moment) (hq : q.Wf) (hms : ∀ m ∈ ms, arms m = false) (h : runMoments ms (q.regs r) = .next t) :
    t = (ms.foldl moment q).regs t ∧ (ms.foldl moment q).Wf ∧
      (ms.foldl moment q).bytes = q.bytes ++ acceptedBytes ms (q.regs r) := by
  induction ms generalizing q r with
  | nil => cases h; exact ⟨regs_eq_regs_regs q r, hq, (List.append_nil _).symm⟩
  | cons m ms ih =>
    obtain ⟨ha, hms⟩ := List.forall_mem_cons.mp hms
    obtain ⟨u, hu, -⟩ := execMoment_next m (q.regs r)
    obtain ⟨hregs, hwf, hbytes⟩ := execMoment_regs hq ha hu
    rw [runMoments_cons hu, hregs] at h
    obtain ⟨ht, htwf, htbytes⟩ := ih hwf hms h
    refine ⟨ht, htwf, ?_⟩
    rw [acceptedBytes_cons hu, List.foldl_cons, htbytes, hbytes, ← hregs, List.append_assoc]

end

end Intake

/-- From the armed state, after any moments that do not arm, the registers of unit F show the fields of the bytes accepted. -/
theorem runMoments_of_armed {ms : List Moment} {s t : State} (hs : Armed s) (hms : ∀ m ∈ ms, arms m = false)
    (h : runMoments ms s = .next t) : ∃ q : Intake, t = q.regs t ∧ q.Wf ∧ q.bytes = acceptedBytes ms s := by
  have hs' : s = (Intake.preamble []).regs s := hs
  rw [hs'] at h
  obtain ⟨ht, hwf, hbytes⟩ := Intake.runMoments_regs (q := .preamble []) ms (Nat.succ_pos 3) hms h
  rw [← hs'] at hbytes
  exact ⟨_, ht, hwf, hbytes⟩

/-! ### What the registers tell of the bytes accepted (R86, R87, R92) -/

/-- R43: an accepted intake is the frame around its span. -/
theorem bytes_of_accepted {l b c : List Byte} (hwf : (Intake.accepted l b c).Wf) :
    (Intake.accepted l b c).bytes = envelope b ∧ b.length < 2 ^ 32 := by
  obtain ⟨hl, hb, hc, hcrc⟩ := hwf
  have hlt := beValue_lt l
  rw [hl] at hlt
  have hlen : wireBytes32 (BitVec.ofNat 32 b.length) = l := by rw [hb]; exact wireBytes32_be32Of hl
  have hck : wireBytes16 (crc16 b) = c := by rw [← hcrc]; exact wireBytes16_be16Of hc
  exact ⟨by rw [envelope, hlen, hck]; rfl, by omega⟩

/-- Settles O54: only an accepted intake shows `OK`. -/
theorem okMeansTheEnvelopeIsConsistent : Obligations.OkMeansTheEnvelopeIsConsistent := by
  intro ms s t hs hms ht hok
  obtain ⟨q, hq, hwf, hbytes⟩ := runMoments_of_armed hs hms ht
  rw [okOut_iff, hq, Intake.regs_phase] at hok
  cases q with
  | accepted l b c =>
    obtain ⟨henv, hlt⟩ := bytes_of_accepted hwf
    obtain ⟨hl, hb, -⟩ := hwf
    refine ⟨b, hlt, by rw [← hbytes, henv], ?_⟩
    rw [hq, hb]
    exact be32Of_toNat hl
  | _ => cases hok

/-- R37: a span begins at offset 8. -/
theorem length_span {l : List Byte} (hl : l.length = 4) (b : List Byte) :
    (zeroPreamble ++ l ++ b).length = 8 + b.length := by
  rw [List.length_append, List.length_append, hl]
  rfl

theorem idx_toNat {n : Nat} (hn : n < 4) : (BitVec.ofNat 2 n).toNat = n := by
  rw [BitVec.toNat_ofNat, Nat.mod_eq_of_lt hn]

/-- R19: `cnt` and `ovf` together count a span to below 2^33 bytes. -/
theorem spanCount_counted (l : List Byte) {b : List Byte} (hb : b.length < 2 ^ 33) (r : State) :
    spanCount (counted l b r) = b.length := by
  simp only [spanCount, counted, BitVec.toNat_ofNat, decide_eq_true_eq]
  split <;> omega

/-- R86: every intake shows in the registers how many bytes it has, up to the range of `cnt` and `ovf` (R19). -/
theorem bytesAccepted_regs {q : Intake} (hwf : q.Wf) (hlt : q.bytes.length < 2 ^ 33) (r : State) :
    bytesAccepted (q.regs r) = some q.bytes.length := by
  cases q with
  | preamble p => exact congrArg some (idx_toNat hwf)
  | length l =>
    have hlen : (zeroPreamble ++ l).length = 4 + l.length := List.length_append
    rw [Intake.bytes, hlen]
    exact congrArg (fun n => some (4 + n)) (idx_toNat hwf)
  | span l b =>
    rw [Intake.bytes, length_span hwf] at hlt ⊢
    exact congrArg (fun n => some (8 + n)) (spanCount_counted l (by omega) r)
  | lengthMismatch l b =>
    obtain ⟨hl, -⟩ := hwf
    rw [Intake.bytes, length_span hl] at hlt ⊢
    exact congrArg (fun n => some (8 + n)) (spanCount_counted l (by omega) r)
  | checksum l b c =>
    obtain ⟨hl, hb, hc⟩ := hwf
    rw [Intake.bytes, List.length_append, length_span hl, hb, ← be32Of_toNat hl]
    exact congrArg (fun n => some (8 + (be32Of l).toNat + n)) (idx_toNat (by omega))
  | accepted l b c | checksumMismatch l b c =>
    obtain ⟨hl, hb, hc, -⟩ := hwf
    rw [Intake.bytes, List.length_append, length_span hl, hb, hc, ← be32Of_toNat hl, Nat.add_right_comm]
    rfl
  | invalidPreamble p =>
    obtain ⟨hp, -⟩ := hwf
    exact congrArg some hp.symm

theorem bytesAccepted_of_frameOffset {s : State} {n : Nat} (h : frameOffset s = some n) : bytesAccepted s = some n := by
  unfold frameOffset at h
  unfold bytesAccepted
  cases hp : s.phase <;> simp only [hp] at h ⊢ 
  · exact h
  · exact h
  · cases hovf : s.ovf with
    | true => simp [hovf] at h
    | false => simpa [hovf, spanCount] using h
  · exact h
  · cases h
  · cases h

/-- Settles O51: the intake's count, and the offset of R21 phase by phase. -/
theorem bytesAcceptedAreReadable : Obligations.BytesAcceptedAreReadable := by
  refine ⟨fun ms s hs hms hlt => ?_, fun s n => bytesAccepted_of_frameOffset⟩
  obtain ⟨t, ht, -⟩ := runMoments_next ms s
  obtain ⟨q, hq, hwf, hbytes⟩ := runMoments_of_armed hs hms ht
  rw [← hbytes] at hlt ⊢
  refine ⟨t, ht, ?_⟩
  rw [hq]
  exact bytesAccepted_regs hwf hlt t

theorem countsSpan_counted (l b : List Byte) (r : State) : CountsSpan (counted l b r) b :=
  ⟨rfl, rfl, decide_eq_true_iff⟩

/-- Settles O56: each error is shown by one kind of intake, whose bytes its registers hold. -/
theorem errorsLeaveTheFrameReadable : Obligations.ErrorsLeaveTheFrameReadable := by
  intro ms s hs hms
  obtain ⟨t, ht, -⟩ := runMoments_next ms s
  obtain ⟨q, hq, hwf, hbytes⟩ := runMoments_of_armed hs hms ht
  refine ⟨t, ht, fun he => ?_, fun he => ?_, fun he => ?_⟩ <;> rw [hq] at he ⊢ <;> rw [← hbytes]
  · cases q with
    | invalidPreamble p =>
      obtain ⟨hp, hne⟩ := hwf
      exact ⟨(wireBytes32_be32Of hp).symm, mt (be32Of_eq_zero_iff hp).mp hne⟩
    | _ => cases he
  · cases q with
    | lengthMismatch l b =>
      obtain ⟨hl, hne⟩ := hwf
      refine ⟨b, countsSpan_counted l b t, ?_, ?_⟩
      · rw [show ((Intake.lengthMismatch l b).regs t).len.toNat = beValue l from be32Of_toNat hl]
        exact hne
      · rw [show wireBytes32 ((Intake.lengthMismatch l b).regs t).len = l from wireBytes32_be32Of hl]
        rfl
    | _ => cases he
  · cases q with
    | checksumMismatch l b c =>
      obtain ⟨hl, hb, hc, hne⟩ := hwf
      refine ⟨b, countsSpan_counted l b t, ?_, hne, ?_⟩
      · rw [show ((Intake.checksumMismatch l b c).regs t).len.toNat = beValue l from be32Of_toNat hl]
        exact hb
      · rw [show wireBytes32 ((Intake.checksumMismatch l b c).regs t).len = l from wireBytes32_be32Of hl,
          show wireBytes16 ((Intake.checksumMismatch l b c).regs t).rxck = c from wireBytes16_be16Of hc]
        rfl
    | _ => cases he

end Sys2Proof.Machine

/-! PROOFS. The family `other`: the pseudo-operation `FRAME` and the verdict in closed form (R37, R56, R84). -/

namespace Sys2Proof.Machine

/-! ### The result bits of a sequence (R75) -/

section
variable {i : Instr} {d : Byte} {s t : State}

/-- The bytes that operations present to unit F, in order. -/
def fbyteData (is : List Instr) : List Byte :=
  is.filterMap fun i =>
    match i with
    | .fbyte d => some d
    | _ => none

theorem arms_eq_false_of_mem_issue {is : List Instr} (his : ∀ i ∈ is, i ≠ .farm) : ∀ m ∈ is.map issue, arms m = false := by
  intro m hm
  obtain ⟨i, hi, rfl⟩ := List.mem_map.mp hm
  rw [← Bool.not_eq_true, arms_of_instrOf (instrOf_issue i)]
  exact his i hi

theorem acceptedBytes_issue (h : exec i s = .next t) (is : List Instr) :
    acceptedBytes ((i :: is).map issue) s = takenByte (issue i) t ++ acceptedBytes (is.map issue) t :=
  acceptedBytes_cons ((execMoment_issue i s).trans h) _

theorem fbyteResults_issue_fbyte (h : exec (.fbyte d) s = .next t) (is : List Instr) :
    fbyteResults ((Instr.fbyte d :: is).map issue) s = t.acc :: fbyteResults (is.map issue) t := by
  simp only [List.map_cons, fbyteResults, execMoment_issue, h, instrOf_issue, List.singleton_append]

theorem fbyteResults_issue_of_ne (hi : ∀ d, i ≠ .fbyte d) (h : exec i s = .next t) (is : List Instr) :
    fbyteResults ((i :: is).map issue) s = fbyteResults (is.map issue) t := by
  simp only [List.map_cons, fbyteResults, execMoment_issue, h, instrOf_issue]
  cases i with
  | fbyte d => exact absurd rfl (hi d)
  | _ => rfl

theorem takenByte_issue_fbyte : takenByte (issue (.fbyte d)) t = if t.acc = some true then [d] else [] := by
  simp only [takenByte, instrOf_issue]

end

/-- The result bits of `n` bytes of which the first `k` are accepted. -/
def acceptsFirst (n k : Nat) : List (Option Bool) := (List.range n).map fun j => some (decide (j < k))

theorem acceptsFirst_succ_succ (n k : Nat) : acceptsFirst (n + 1) (k + 1) = some true :: acceptsFirst n k := by
  simp [acceptsFirst, List.range_succ_eq_map, Function.comp_def]

theorem acceptsFirst_succ_zero (n : Nat) : acceptsFirst (n + 1) 0 = some false :: acceptsFirst n 0 := by
  simp [acceptsFirst, List.range_succ_eq_map, Function.comp_def]

/-- R75, R80, R100: until unit F is armed again, the bytes accepted are the first ones presented. -/
theorem fbyteResults_eq_acceptsFirst (is : List Instr) (his : ∀ i ∈ is, i ≠ .farm) (s : State) :
    fbyteResults (is.map issue) s = acceptsFirst (fbyteData is).length (acceptedBytes (is.map issue) s).length := by
  induction is generalizing s with
  | nil => rfl
  | cons i is ih =>
    obtain ⟨-, his'⟩ := List.forall_mem_cons.mp his
    obtain ⟨t, ht⟩ := exec_next i s
    by_cases hi : ∃ d, i = .fbyte d
    · obtain ⟨d, rfl⟩ := hi
      have hacc := exec_fbyte_acc ht
      have hdata : fbyteData (.fbyte d :: is) = d :: fbyteData is := rfl
      rw [fbyteResults_issue_fbyte ht, hacc, ih his', hdata, List.length_cons]
      cases hopen : incompleteOut s with
      | true =>
        rw [acceptedBytes_issue ht, takenByte_issue_fbyte, if_pos (by rw [hacc, hopen])]
        exact (acceptsFirst_succ_succ _ _).symm
      | false =>
        obtain ⟨-, -, -, hnone⟩ :=
          runMoments_of_final _ ((incompleteOut_eq_false_iff s).mp hopen) (arms_eq_false_of_mem_issue his)
        obtain ⟨-, hnone'⟩ := List.append_eq_nil_iff.mp ((acceptedBytes_issue ht is).symm.trans hnone)
        rw [hnone, hnone']
        exact (acceptsFirst_succ_zero _).symm
    · have hne : ∀ d, i ≠ .fbyte d := not_exists.mp hi
      have htaken : takenByte (issue i) t = [] :=
        Intake.takenByte_of_ne_fbyte (fun d h => hne d (Option.some_inj.mp ((instrOf_issue i).symm.trans h))) t
      have hdata : fbyteData (i :: is) = fbyteData is := by
        cases i with
        | fbyte d => exact absurd rfl (hne d)
        | _ => rfl
      rw [fbyteResults_issue_of_ne hne ht, acceptedBytes_issue ht, htaken, ih his', hdata]
      rfl

/-! ### `FRAME` (R56) -/

/-- The bytes presented to unit F, with the marker after the first `k` of them, where there is one. -/
def markedBytes (bytes : List Byte) : Option Nat → List Instr
  | none => bytes.map .fbyte
  | some k => (bytes.take k).map .fbyte ++ .fspanend :: (bytes.drop k).map .fbyte

theorem frameOps_eq (bytes : List Byte) (e : Option Nat) :
    frameOps bytes e = .farm :: markedBytes bytes ((markerAt bytes e).map (8 + ·)) := by
  have hexpand : frameOps bytes e = expand (.frame bytes (markerAt bytes e)) := rfl
  rw [hexpand]
  cases markerAt bytes e <;> rfl

/-- Bytes ahead of the marker's range are presented first. -/
theorem markedBytes_append (p bytes : List Byte) (k : Option Nat) :
    markedBytes (p ++ bytes) (k.map (p.length + ·)) = p.map .fbyte ++ markedBytes bytes k := by
  cases k with
  | none => exact List.map_append
  | some k =>
    simp only [Option.map_some, markedBytes, List.take_length_add_append, List.drop_length_add_append, List.map_append,
      List.append_assoc]

theorem fbyteData_markedBytes (bytes : List Byte) (k : Option Nat) : fbyteData (markedBytes bytes k) = bytes := by
  have hmap (l : List Byte) : fbyteData (l.map .fbyte) = l := by
    simp [fbyteData, List.filterMap_map]
  cases k with
  | none => exact hmap bytes
  | some k =>
    have happ : fbyteData (markedBytes bytes (some k)) =
        fbyteData ((bytes.take k).map .fbyte) ++ fbyteData ((bytes.drop k).map .fbyte) := List.filterMap_append
    rw [happ, hmap, hmap, List.take_append_drop]

theorem unitOf_of_mem_markedBytes {bytes : List Byte} {k : Option Nat} {i : Instr} (hi : i ∈ markedBytes bytes k) :
    unitOf i = some .f ∧ i ≠ .farm := by
  have hmap (l : List Byte) (hi : i ∈ l.map Instr.fbyte) : unitOf i = some .f ∧ i ≠ .farm := by
    obtain ⟨d, -, rfl⟩ := List.mem_map.mp hi
    exact ⟨rfl, nofun⟩
  cases k with
  | none => exact hmap _ hi
  | some k =>
    rcases List.mem_append.mp hi with hi | hi
    · exact hmap _ hi
    · rcases List.mem_cons.mp hi with rfl | hi
      · exact ⟨rfl, nofun⟩
      · exact hmap _ hi

/-- R14, for a sequence of operations of unit F. -/
theorem runMoments_unitF_frame (is : List Instr) (his : ∀ i ∈ is, unitOf i = some .f) {s t : State}
    (h : runMoments (is.map issue) s = .next t) : t.gcrc = s.gcrc ∧ t.port = s.port := by
  induction is generalizing s with
  | nil => cases h; exact ⟨rfl, rfl⟩
  | cons i is ih =>
    obtain ⟨hi, his⟩ := List.forall_mem_cons.mp his
    obtain ⟨u, hu⟩ := exec_next i s
    rw [runMoments_issue hu] at h
    obtain ⟨hgcrc, hport⟩ := ih his h
    obtain ⟨hgcrc', hport'⟩ := exec_unitF_frame hi hu
    exact ⟨hgcrc.trans hgcrc', hport.trans hport'⟩

/-- What unit F has taken of a frame's bytes, with the marker in its place (R84). -/
def frameIntake (bytes : List Byte) (e : Option Nat) : Intake :=
  (markedBytes bytes ((markerAt bytes e).map (8 + ·))).foldl Intake.op (.preamble [])

theorem Intake.foldl_moment_issue (is : List Instr) (q : Intake) : (is.map issue).foldl moment q = is.foldl op q := by
  have hop (q : Intake) (i : Instr) : q.moment (issue i) = q.op i := by rw [moment, instrOf_issue]
  simp only [List.foldl_map, hop]

theorem Intake.regs_congr (q : Intake) {r r' : State} (hgcrc : r.gcrc = r'.gcrc) (hacc : r.acc = r'.acc)
    (hport : r.port = r'.port) : q.regs r = q.regs r' := by
  rw [← unitFFrom_regs q r r, ← unitFFrom_regs q r r', unitFFrom, unitFFrom, hgcrc, hacc, hport]

/-- R84: what `FRAME` leads to, and which bytes it accepts, by its intake. -/
theorem runMoments_frameOps (bytes : List Byte) (e : Option Nat) (s : State) : ∃ t,
    runMoments ((frameOps bytes e).map issue) s = .next t ∧ t = (frameIntake bytes e).regs { s with acc := t.acc } ∧
      fbyteResults ((frameOps bytes e).map issue) s = acceptsFirst bytes.length (frameIntake bytes e).bytes.length := by
  rw [frameOps_eq]
  have hmem {i : Instr} := unitOf_of_mem_markedBytes (bytes := bytes) (k := (markerAt bytes e).map (8 + ·)) (i := i)
  have hdata := fbyteData_markedBytes bytes ((markerAt bytes e).map (8 + ·))
  have hintake : frameIntake bytes e = (markedBytes bytes ((markerAt bytes e).map (8 + ·))).foldl Intake.op (.preamble []) := rfl
  generalize markedBytes bytes ((markerAt bytes e).map (8 + ·)) = is at hmem hdata hintake
  have hstart : accept (armF s) = (Intake.preamble []).regs (accept s) := rfl
  have harms := arms_eq_false_of_mem_issue (is := is) fun i hi => (hmem hi).2
  obtain ⟨t, ht, -⟩ := runMoments_next (is.map issue) (accept (armF s))
  obtain ⟨hgcrc, hport⟩ := runMoments_unitF_frame is (fun i hi => (hmem hi).1) ht
  have hresults := fbyteResults_eq_acceptsFirst is (fun i hi => (hmem hi).2) (accept (armF s))
  obtain ⟨hregs, -, hbytes⟩ := Intake.runMoments_regs (q := .preamble []) _ (Nat.succ_pos 3) harms (hstart ▸ ht)
  rw [Intake.foldl_moment_issue, ← hintake] at hregs hbytes
  refine ⟨t, (runMoments_issue (exec_farm s) is).trans ht, ?_, ?_⟩
  · exact hregs.trans (Intake.regs_congr _ hgcrc rfl hport)
  · rw [fbyteResults_issue_of_ne (i := .farm) nofun (exec_farm s), hresults, hdata, hbytes, hstart]
    rfl

/-! ### The bytes of each field, taken at once -/

namespace Intake

/-- After the verdict nothing moves the intake (R80, R82). -/
theorem foldl_op_of_isOpen_eq_false {q : Intake} (hq : q.isOpen = false) (is : List Instr) : is.foldl op q = q := by
  induction is with
  | nil => rfl
  | cons i is ih =>
    have hop : q.op i = q := by
      cases q with
      | preamble p | length l | span l b | checksum l b c => cases hq
      | _ => cases i <;> rfl
    rw [List.foldl_cons, hop, ih]

theorem foldl_op_preamble {p : List Byte} (hp : p.length < 4) : (p.map Instr.fbyte).foldl op (preamble []) = preamble p := by
  match p, hp with
  | [], _ => rfl
  | [_], _ => rfl
  | [_, _], _ => rfl
  | [_, _, _], _ => rfl

theorem foldl_op_whole_preamble {p : List Byte} (hp : p.length = 4) :
    (p.map Instr.fbyte).foldl op (preamble []) = if beValue p = 0 then length [] else invalidPreamble p := by
  obtain ⟨a, b, c, d, rfl⟩ := List.length_eq_four.mp hp
  rfl

theorem foldl_op_length {l : List Byte} (hl : l.length < 4) : (l.map Instr.fbyte).foldl op (length []) = length l := by
  match l, hl with
  | [], _ => rfl
  | [_], _ => rfl
  | [_, _], _ => rfl
  | [_, _, _], _ => rfl

theorem foldl_op_whole_length {l : List Byte} (hl : l.length = 4) : (l.map Instr.fbyte).foldl op (length []) = span l [] := by
  obtain ⟨a, b, c, d, rfl⟩ := List.length_eq_four.mp hl
  rfl

theorem foldl_op_span (l b bytes : List Byte) : (bytes.map Instr.fbyte).foldl op (span l b) = span l (b ++ bytes) := by
  induction bytes generalizing b with
  | nil => rw [List.append_nil]; rfl
  | cons d bytes ih =>
    rw [List.map_cons, List.foldl_cons, show (span l b).op (.fbyte d) = span l (b ++ [d]) from rfl, ih, List.append_assoc]
    rfl

theorem isOpen_judge (l b c : List Byte) : (judge l b c).isOpen = false := by
  rw [judge]
  split_ifs <;> rfl

theorem foldl_op_checksum (l b c : List Byte) : (c.map Instr.fbyte).foldl op (checksum l b []) =
    if c.length < 2 then checksum l b c else judge l b (c.take 2) := by
  match c with
  | [] => rfl
  | [_] => rfl
  | x :: y :: c =>
    have hjudge : ((x :: y :: c).map Instr.fbyte).foldl op (checksum l b []) = (c.map Instr.fbyte).foldl op (judge l b [x, y]) := rfl
    rw [hjudge, foldl_op_of_isOpen_eq_false (isOpen_judge l b [x, y]), if_neg (by simp)]
    rfl

/-- The end of the span, and the bytes after it (R84, rows 5 to 8). -/
def closed (l b c : List Byte) : Intake :=
  if b.length ≠ beValue l then lengthMismatch l b
  else if c.length < 2 then checksum l b c else judge l b (c.take 2)

theorem foldl_op_marked_span (l b c : List Byte) :
    (Instr.fspanend :: c.map Instr.fbyte).foldl op (span l b) = closed l b c := by
  rw [List.foldl_cons, closed, show (span l b).op .fspanend = (span l b).mark from rfl, mark]
  by_cases hb : b.length = beValue l
  · rw [if_pos hb, if_neg (not_not.mpr hb), foldl_op_checksum]
  · rw [if_neg hb, if_pos hb, foldl_op_of_isOpen_eq_false rfl]

end Intake

/-! ### The intake of a frame's bytes (R84) -/

theorem markerAt_eq_none {bytes : List Byte} (h : bytes.length < 8) (e : Option Nat) : markerAt bytes e = none := by
  cases e with
  | none => rfl
  | some k => exact Option.filter_some_neg (by simp; omega)

section
variable {p l : List Byte} (rest body : List Byte) (e : Option Nat)

theorem frameIntake_of_lt_four (hp : p.length < 4) : frameIntake p e = .preamble p := by
  rw [frameIntake, markerAt_eq_none (by omega)]
  exact Intake.foldl_op_preamble hp

/-- Four bytes of a preamble decide how the rest is taken. -/
theorem frameIntake_append (hp : p.length = 4) : frameIntake (p ++ rest) e =
    (markedBytes rest ((markerAt (p ++ rest) e).map (4 + ·))).foldl Intake.op
      (if beValue p = 0 then .length [] else .invalidPreamble p) := by
  have hpos : (markerAt (p ++ rest) e).map (8 + ·) = ((markerAt (p ++ rest) e).map (4 + ·)).map (p.length + ·) := by
    rw [Option.map_map, hp]
    congr 1
    funext k
    simp only [Function.comp_apply]
    omega
  rw [frameIntake, hpos, markedBytes_append, List.foldl_append, Intake.foldl_op_whole_preamble hp]

theorem frameIntake_of_invalid_preamble (hp : p.length = 4) (hne : beValue p ≠ 0) :
    frameIntake (p ++ rest) e = .invalidPreamble p := by
  rw [frameIntake_append rest e hp, if_neg hne, Intake.foldl_op_of_isOpen_eq_false rfl]

theorem frameIntake_of_lt_eight (hp : p.length = 4) (h0 : beValue p = 0) (hl : l.length < 4) :
    frameIntake (p ++ l) e = .length l := by
  have hlen : (p ++ l).length < 8 := by rw [List.length_append]; omega
  rw [frameIntake_append l e hp, if_pos h0, markerAt_eq_none hlen]
  exact Intake.foldl_op_length hl

/-- After the header, the marker closes the span. -/
theorem frameIntake_of_header (hp : p.length = 4) (h0 : beValue p = 0) (hl : l.length = 4) :
    frameIntake (p ++ (l ++ body)) e =
      match markerAt (p ++ (l ++ body)) e with
      | none => .span l body
      | some k => Intake.closed l (body.take k) (body.drop k) := by
  rw [frameIntake_append _ e hp, if_pos h0]
  generalize markerAt (p ++ (l ++ body)) e = marker
  rw [← hl, markedBytes_append, List.foldl_append, Intake.foldl_op_whole_length hl]
  cases marker with
  | none => exact Intake.foldl_op_span l [] body
  | some k => rw [markedBytes, List.foldl_append, Intake.foldl_op_span, List.nil_append, Intake.foldl_op_marked_span]

end

/-! ### The closed form is the intake's (R84) -/

theorem le_of_markerAt {bytes : List Byte} {e : Option Nat} {k : Nat} (h : markerAt bytes e = some k) :
    8 + k ≤ bytes.length := by
  obtain ⟨-, hk⟩ := Option.filter_eq_some_iff.mp h
  exact of_decide_eq_true hk

/-- The rows of R84 from `SPAN` on, for a frame of the header `p`, `l` and the bytes `body`. -/
theorem closedForm_of_header {p l : List Byte} (body : List Byte) (e : Option Nat) (s : State) (hp : p.length = 4)
    (h0 : beValue p = 0) (hl : l.length = 4) :
    closedForm (p ++ (l ++ body)) e s = (frameIntake (p ++ (l ++ body)) e).regs s ∧
      consumed (p ++ (l ++ body)) e = (frameIntake (p ++ (l ++ body)) e).bytes.length := by
  have hn : (p ++ (l ++ body)).length = 8 + body.length := by simp [hp, hl]; omega
  have hfour : (p ++ (l ++ body)).take 4 = p := List.take_left' hp
  have hlen : ((p ++ (l ++ body)).drop 4).take 4 = l := by rw [List.drop_left' hp, List.take_left' hl]
  have hspan : (p ++ (l ++ body)).drop 8 = body := by
    rw [← List.append_assoc, List.drop_left' (by rw [List.length_append, hp, hl])]
  have hbody (k : Nat) : (p ++ (l ++ body)).drop (8 + k) = body.drop k := by rw [← List.drop_drop, hspan]
  have h4 : ¬ 8 + body.length < 4 := by omega
  have h8 : ¬ 8 + body.length < 8 := by omega
  rw [frameIntake_of_header body e hp h0 hl, closedForm, consumed]
  simp only [hn, hfour, hlen, h0, ne_eq, not_true, if_false, h4, h8, hspan, hbody, spanOf, Nat.add_sub_cancel_left]
  cases hm : markerAt (p ++ (l ++ body)) e with
  | none => exact ⟨rfl, (length_span hl body).symm⟩
  | some k =>
    have hk := le_of_markerAt hm
    rw [hn] at hk
    have hb : (body.take k).length = k := List.length_take_of_le (by omega)
    have hc : body.length = k + (body.drop k).length := by rw [List.length_drop]; omega
    have hsub : 8 + body.length - (8 + k) = (body.drop k).length := by omega
    have hck : 8 + body.length < 8 + k + 2 ↔ (body.drop k).length < 2 := by omega
    have hbytes (c : List Byte) : (zeroPreamble ++ l ++ body.take k ++ c).length = 8 + k + c.length := by
      rw [List.length_append, length_span hl, hb]
    simp only [be32Of_toNat hl, Intake.closed, hb, hck, hsub, ne_eq, ite_not]
    by_cases hkl : k = beValue l
    · rw [if_pos hkl, if_pos hkl, if_pos hkl]
      by_cases hc2 : (body.drop k).length < 2
      · rw [if_pos hc2, if_pos hc2, if_pos hc2, Intake.bytes, hbytes, hc, Nat.add_assoc]
        exact ⟨by simp only [Intake.regs, counted, hb], rfl⟩
      · have h2 : ((body.drop k).take 2).length = 2 := List.length_take_of_le (by omega)
        rw [if_neg hc2, if_neg hc2, if_neg hc2, Intake.bytes_judge, hbytes, h2, Intake.judge, apply_ite (Intake.regs s)]
        exact ⟨by simp only [Intake.regs, counted, hb, be16Of], by omega⟩
    · rw [if_neg hkl, if_neg hkl, if_neg hkl, Intake.bytes, length_span hl, hb]
      exact ⟨by simp only [Intake.regs, counted, hb], rfl⟩

theorem closedForm_eq_regs (bytes : List Byte) (e : Option Nat) (s : State) :
    closedForm bytes e s = (frameIntake bytes e).regs s ∧ consumed bytes e = (frameIntake bytes e).bytes.length := by
  by_cases h4 : bytes.length < 4
  · rw [frameIntake_of_lt_four e h4, closedForm, consumed, if_pos h4, if_pos h4]
    exact ⟨rfl, rfl⟩
  obtain ⟨p, rest, rfl, hp⟩ : ∃ p rest, bytes = p ++ rest ∧ p.length = 4 :=
    ⟨_, _, (List.take_append_drop 4 bytes).symm, List.length_take_of_le (by omega)⟩
  have hfour : (p ++ rest).take 4 = p := List.take_left' hp
  by_cases h0 : beValue p = 0
  · by_cases h8 : rest.length < 4
    · have h8' : (p ++ rest).length < 8 := by rw [List.length_append]; omega
      have hn : (p ++ rest).length = 4 + rest.length := by rw [List.length_append, hp]
      rw [frameIntake_of_lt_eight e hp h0 h8, closedForm, consumed]
      simp only [hfour, h0, h4, h8', List.drop_left' hp, ne_eq, not_true, if_false, if_true]
      rw [hn, Nat.add_sub_cancel_left]
      exact ⟨rfl, (List.length_append (as := zeroPreamble)).symm⟩
    · obtain ⟨l, body, rfl, hl⟩ : ∃ l body, rest = l ++ body ∧ l.length = 4 :=
        ⟨_, _, (List.take_append_drop 4 rest).symm, List.length_take_of_le (by omega)⟩
      exact closedForm_of_header body e s hp h0 hl
  · rw [frameIntake_of_invalid_preamble rest e hp h0, closedForm, consumed, hfour]
    simp only [h4, if_false, ne_eq, h0, not_false_eq_true, if_true]
    exact ⟨rfl, hp.symm⟩

theorem Intake.regs_withAcc (q : Intake) (r : State) (a : Option Bool) : { q.regs r with acc := a } = q.regs { r with acc := a } := by
  cases q <;> rfl

/-- Settles O49: both `FRAME` and the table of R84 give what the intake of the frame's bytes shows. -/
theorem verdictInClosedForm : Obligations.VerdictInClosedForm := by
  intro bytes e s
  obtain ⟨t, ht, hregs, hresults⟩ := runMoments_frameOps bytes e s
  obtain ⟨hclosed, hconsumed⟩ := closedForm_eq_regs bytes e s
  refine ⟨t, ht, ?_, ?_⟩
  · rw [hclosed, Intake.regs_withAcc]
    exact hregs
  · rw [hresults, ← hconsumed]
    rfl

/-! ### The bytes of a complete frame (R37, R43) -/

/-- The four bytes of the length field (R43). -/
def lengthField (span : List Byte) : List Byte := wireBytes32 (BitVec.ofNat 32 span.length)

/-- The two bytes of the checksum field (R43). -/
def checksumField (span : List Byte) : List Byte := wireBytes16 (crc16 span)

section
variable {span : List Byte}

theorem envelope_eq (span : List Byte) : envelope span = zeroPreamble ++ (lengthField span ++ (span ++ checksumField span)) := by
  simp only [envelope, zeroPreamble, lengthField, checksumField, List.append_assoc]

theorem length_envelope (span : List Byte) : (envelope span).length = 10 + span.length := by
  rw [envelope_eq, ← List.append_assoc, ← List.append_assoc, List.length_append, length_span rfl]
  exact Nat.add_right_comm 8 span.length 2

theorem beValue_lengthField (h : span.length < 2 ^ 32) : beValue (lengthField span) = span.length := by
  rw [← be32Of_toNat rfl, lengthField, be32Of_wireBytes32, BitVec.toNat_ofNat, Nat.mod_eq_of_lt h]

theorem take_envelope_length (span : List Byte) (j : Nat) :
    (envelope span).take (4 + j) = zeroPreamble ++ (lengthField span ++ (span ++ checksumField span)).take j := by
  rw [envelope_eq]
  exact List.take_length_add_append (l₁ := zeroPreamble) j

theorem take_envelope_span (span : List Byte) (j : Nat) :
    (envelope span).take (4 + (4 + j)) = zeroPreamble ++ (lengthField span ++ (span ++ checksumField span).take j) := by
  rw [take_envelope_length]
  exact congrArg (zeroPreamble ++ ·) (List.take_length_add_append (l₁ := lengthField span) j)

/-- The checksum field of a frame holds the checksum of its span (R79). -/
theorem judge_checksumField (l span : List Byte) : Intake.judge l span (checksumField span) = .accepted l span (checksumField span) :=
  if_pos (be16Of_wireBytes16 (crc16 span))

/-- The first bytes of a frame to inside its span. -/
theorem frameIntake_envelope_span {j : Nat} (hj : j < span.length) :
    frameIntake ((envelope span).take (4 + (4 + j))) (some span.length) =
      .span (lengthField span) ((span ++ checksumField span).take j) := by
  have hmarker : markerAt ((envelope span).take (4 + (4 + j))) (some span.length) = none := by
    refine Option.filter_some_neg ?_
    rw [decide_eq_false_iff_not, List.length_take, length_envelope]
    omega
  rw [take_envelope_span] at hmarker ⊢
  rw [frameIntake_of_header _ _ rfl rfl rfl, hmarker]

/-- The first bytes of a frame from the end of its span on. -/
theorem frameIntake_envelope_checksum (h : span.length < 2 ^ 32) {i : Nat} (hi : i ≤ 2) :
    frameIntake ((envelope span).take (4 + (4 + (span.length + i)))) (some span.length) =
      if i < 2 then .checksum (lengthField span) span ((checksumField span).take i)
      else .accepted (lengthField span) span (checksumField span) := by
  have hmarker : markerAt ((envelope span).take (4 + (4 + (span.length + i)))) (some span.length) = some span.length := by
    refine Option.filter_some_pos ?_
    rw [decide_eq_true_iff, List.length_take, length_envelope]
    omega
  have hlen : ((checksumField span).take i).length = i := List.length_take_of_le hi
  rw [take_envelope_span] at hmarker ⊢
  rw [frameIntake_of_header _ _ rfl rfl rfl, hmarker]
  simp only [List.take_length_add_append, List.take_left, List.drop_left, Intake.closed, beValue_lengthField h, ne_eq, not_true,
    if_false, hlen]
  by_cases hck : i < 2
  · rw [if_pos hck, if_pos hck]
  · obtain rfl : i = 2 := by omega
    exact judge_checksumField (lengthField span) span

theorem frameIntake_envelope (h : span.length < 2 ^ 32) :
    frameIntake (envelope span) (some span.length) = .accepted (lengthField span) span (checksumField span) := by
  have hfull : (envelope span).take (4 + (4 + (span.length + 2))) = envelope span :=
    List.take_of_length_le (by rw [length_envelope]; omega)
  have hwhole := frameIntake_envelope_checksum h (le_refl 2)
  rwa [hfull] at hwhole

/-- R37: the field at an offset, and the phase after the bytes before it. -/
theorem takenIn_fieldAt (h : span.length < 2 ^ 32) {k : Nat} (hk : k ≤ 10 + span.length) :
    let phase := (frameIntake ((envelope span).take k) (some span.length)).phase
    takenIn (fieldAt span.length k) = some phase ∨ takenIn (fieldAt span.length k) = none ∧ phase = .ok := by
  by_cases h4 : k < 4
  · have hlen : ((envelope span).take k).length < 4 := by rw [List.length_take]; omega
    rw [frameIntake_of_lt_four _ hlen, fieldAt, if_pos h4]
    exact .inl rfl
  obtain ⟨j, rfl⟩ := Nat.exists_eq_add_of_le (not_lt.mp h4)
  by_cases h8 : j < 4
  · have hlen : ((lengthField span ++ (span ++ checksumField span)).take j).length < 4 := by rw [List.length_take]; omega
    rw [take_envelope_length, frameIntake_of_lt_eight _ rfl rfl hlen, fieldAt, if_neg h4, if_pos (by omega)]
    exact .inl rfl
  obtain ⟨j, rfl⟩ := Nat.exists_eq_add_of_le (not_lt.mp h8)
  by_cases hspan : j < span.length
  · rw [frameIntake_envelope_span hspan, fieldAt, if_neg h4, if_neg (by omega), if_pos (by omega)]
    exact .inl rfl
  obtain ⟨i, rfl⟩ := Nat.exists_eq_add_of_le (not_lt.mp hspan)
  rw [frameIntake_envelope_checksum h (by omega)]
  by_cases hck : i < 2
  · rw [if_pos hck, fieldAt, if_neg h4, if_neg (by omega), if_neg (by omega), if_pos (by omega)]
    exact .inl rfl
  · rw [if_neg hck, fieldAt, if_neg h4, if_neg (by omega), if_neg (by omega), if_neg (by omega)]
    exact .inr ⟨rfl, rfl⟩

end

/-- Settles O52: the phase shows the intake of the bytes before the offset. -/
theorem bytesAreTakenInTheirFields : Obligations.BytesAreTakenInTheirFields := by
  intro span k s h hk
  rw [length_envelope] at hk
  obtain ⟨t, ht, hregs, -⟩ := runMoments_frameOps ((envelope span).take k) (some span.length) s
  refine ⟨t, ht, ?_⟩
  rw [hregs, Intake.regs_phase]
  exact takenIn_fieldAt h hk

theorem acceptsFirst_self (n : Nat) : acceptsFirst n n = List.replicate n (some true) := by
  induction n with
  | zero => rfl
  | succ n ih => rw [acceptsFirst_succ_succ, ih, List.replicate_succ]

/-- Settles O53: the trailer is the checksum field, and the intake of the frame is accepted with all its bytes. -/
theorem encodedFrameValidates : Obligations.EncodedFrameValidates := by
  intro span s h
  obtain ⟨t, ht, hregs, hresults⟩ :=
    runMoments_frameOps (envelope span) (some span.length) { s with gcrc := crc16 span, acc := some true }
  rw [frameIntake_envelope h] at hregs hresults
  have hwf : (Intake.accepted (lengthField span) span (checksumField span)).Wf :=
    ⟨rfl, (beValue_lengthField h).symm, rfl, be16Of_wireBytes16 (crc16 span)⟩
  refine ⟨_, t, runMoments_expand_crc16 span s, rfl, ht, ?_, ?_, ?_, ?_⟩
  · rw [okOut_iff, hregs, Intake.regs_phase]
    rfl
  · rw [hregs]
    rfl
  · rw [hregs, Intake.regs_gcrc]
  · obtain ⟨hbytes, -⟩ := bytes_of_accepted hwf
    rw [hresults, hbytes, length_envelope, acceptsFirst_self]

end Sys2Proof.Machine
